-- ==== Sys2Proof/Word.lean ====
section
/-! DEFINITION. The word types of the block: bytes, 32-bit register words, bus descriptors and binary32 bit patterns. -/

namespace Sys2Proof

/-- One byte: a buffer entry or one byte lane of the bus. -/
abbrev Byte := BitVec 8

/-- A 32-bit register word, a data word of the bus, or a phase in units of 2^-32 turn (R36). -/
abbrev Word := BitVec 32

/-- The bit pattern of an IEEE 754 binary32 value (R12, R82): sign in bit 31, biased exponent in
bits 30:23, fraction in bits 22:0. -/
abbrev F := BitVec 32

/-- The 25-bit transaction descriptor `T` of format BUS (R80): WE in bit 24, SIZE in bits 23:22,
ADDR in bits 21:0. -/
abbrev Desc := BitVec 25

/-- +0.0. -/
abbrev fZero : F := 0x00000000#32

/-- 1.0 (R14). -/
abbrev fOne : F := 0x3F800000#32

/-- -1.0. -/
abbrev fNegOne : F := 0xBF800000#32

end Sys2Proof
end

