-- ==== Sys2Proof/Config.lean ====
section
/-! DEFINITION. The fixed sizes of R7 and R8, the configuration record of R8, and the free values: opaque
constants that no proof can see, for what the spec leaves open. -/

namespace Sys2Proof

/-- `DIAL_POLARITY` of one dial (R8, R22): `UNI` is the range [0, 1], `BI` the range [-1, 1]. -/
inductive Polarity where
  | uni
  | bi
  deriving DecidableEq, Repr, Inhabited

/-- The binary32 operations whose NaN result has an open payload (R13). -/
inductive FloatOp where
  | add
  | sub
  | mul
  | div
  | tanh
  deriving DecidableEq, Repr, Inhabited

namespace Config

/-- The identification word of `ID`, the ASCII codes of BER3 (R27, D1). -/
def idWord : Word := 0x42455233#32

/-- The default `HMAX` (R8, D21). -/
def defaultHmax : Nat := 64

/-- The last envelope segment, the index of the last breakpoint (R7, R179). -/
def lastSeg : Nat := 465

/-- The number of envelope breakpoints, `N_ENV` (R7), the divisor of R176. -/
def nEnv : Nat := 466

/-- `RECIP_TABLE_SIZE` (R8, R106). -/
def recipTableSize : Nat := 30

/-- The default `SAMPLE_RATE` (R8, D17). -/
def defaultSampleRate : Nat := 44100

/-- The default `MAX_CLIP_SAMPLES` (R8, D17). -/
def defaultMaxClip : Nat := 1455300

/-- `SECTION_LENGTH` of the zero-initialised patch (R26). -/
def resetSectionLength : BitVec 6 := 3#6

/-! Free values. None has a body: a claim that mentions one holds whatever its value is. -/

/-- `DIAL_SCALE[i]`, OPEN (R8, I6). -/
opaque dialScale : Nat → F

/-- `DIAL_POLARITY[i]`, OPEN (R8, I6). -/
opaque dialPolarity : Nat → Polarity

/-- `IMP_H[k+1]`, OPEN (R8, I7). -/
opaque impH : Nat → Nat

/-- `IMP_W[k+1]`, OPEN (R8, I7). -/
opaque impW : Nat → F

/-- `IMP_T[k+1]`, OPEN (R8, I7). -/
opaque impT : Nat → F

/-- `TANH` of a finite non-zero operand, OPEN (R8, R15, I8); `tanhF` of Machine/Float.lean bounds it as
R15 says. -/
opaque tanhBits : F → BitVec 32

/-- Sign and payload of the NaN that an operation gives for these two operands, open (R13, I13). -/
opaque nanBits : FloatOp → F → F → BitVec 32

end Config

/-- A harmonic count function as plain data: over the finite values a step function that starts at 1 and rises by one at each
listed resolution, and a value for each of the other classes (log entry 5). -/
structure HarmonicSteps where
  /-- The resolutions from which the count is one higher, in any order. -/
  rises : List F
  /-- The count of every NaN (its payload is not observable, R13). -/
  atNaN : Nat
  /-- The count of +inf. -/
  atPosInf : Nat
  /-- The count of -inf. -/
  atNegInf : Nat
  deriving DecidableEq, Repr

/-- `HARMONIC_COUNT` (R8, R107, I9): the spec's default function, or another one. -/
inductive HarmonicFn where
  | standard
  | steps (t : HarmonicSteps)
  deriving DecidableEq, Repr

/-- The configuration record of R8: what a platform fixes once for the block. No transition changes it.
`SINE_BITS`, `PHASE_BITS` and `RECIP_TABLE_SIZE` are constants (R8 fixes their values); `TANH` is the
opaque constant `Config.tanhBits`. -/
structure Params where
  /-- `SAMPLE_RATE`, Hz. -/
  sampleRate : Nat
  /-- `MAX_CLIP_SAMPLES`. -/
  maxClip : Nat
  /-- `HMAX`, the largest harmonic number. -/
  hmax : Nat
  /-- `HARMONIC_COUNT`. -/
  harmonics : HarmonicFn
  /-- `DIAL_SCALE[0..49]`. -/
  dialScale : Vector F 50
  /-- `DIAL_POLARITY[0..49]`. -/
  dialPolarity : Vector Polarity 50
  /-- `IMP_H[1..10]`, partial k at index k-1. -/
  impH : Vector Nat 10
  /-- `IMP_W[1..10]`. -/
  impW : Vector F 10
  /-- `IMP_T[1..10]`. -/
  impT : Vector F 10
  deriving DecidableEq, Repr

end Sys2Proof
end

