-- ==== Sys2Proof/Syntax.lean ====
section
/-! DEFINITION. The operations of the block: one constructor of `Instr` per row of spec/opcode_table.json. -/

namespace Sys2Proof

/-- The registers a 4-byte access of the register region reaches (R61). -/
inductive RegName where
  | id
  | ctrl
  | status
  | config
  | duration
  | length
  | progress
  | irqEn
  | dial (i : Fin 50)
  | slot (s : Fin 10)
  | sectionLength
  | env (k : Fin 466)
  deriving DecidableEq, Repr

/-- The access widths of R81: 1, 2 and 4 bytes. -/
inductive Width where
  | w1
  | w2
  | w4
  deriving DecidableEq, Repr

/-- The six shape bands of R89, in code order. -/
inductive Band where
  | sine
  | slant
  | square
  | saw
  | tri
  | impulse
  deriving DecidableEq, Repr

/-- The operations of R210. A host operation carries what its transaction carries beside its own selection
(index, data word). A datapath operation carries the operands its rule names; FM, AM and MUL operations
carry the slot whose selector field chooses them. Oscillator On is `n - 1 : Fin 8`, section j is
`j - 1 : Fin 3`. -/
inductive Instr where
  /-- R211. -/
  | rdReg (r : RegName)
  /-- R223, n = 1; `i` is `ADDR[20:0]`, the index of the first entry. -/
  | rdBuf8 (i : BitVec 21)
  /-- R223, n = 2. -/
  | rdBuf16 (i : BitVec 21)
  /-- R223, n = 4. -/
  | rdBuf32 (i : BitVec 21)
  /-- R222. -/
  | wrId (v : Word)
  /-- R213. -/
  | wrCtrl (v : Word)
  /-- R214. -/
  | wrStatus (v : Word)
  /-- R215. -/
  | wrConfig (v : Word)
  /-- R216. -/
  | wrDuration (v : Word)
  /-- R222. -/
  | wrLength (v : Word)
  /-- R222. -/
  | wrProgress (v : Word)
  /-- R221. -/
  | wrIrqEn (v : Word)
  /-- R219. -/
  | wrSectionLength (v : Word)
  /-- R217. -/
  | wrDial (i : Fin 50) (v : Word)
  /-- R218. -/
  | wrSlot (s : Fin 10) (v : Word)
  /-- R220. -/
  | wrEnv (k : Fin 466) (v : Word)
  /-- R224. -/
  | wrBuf (w : Width) (i : BitVec 21) (v : Word)
  /-- R225: the transaction's `WE`, `SIZE`, `ADDR` and data word. -/
  | badAccess (we : Bool) (size : BitVec 2) (addr : BitVec 22) (v : Word)
  /-- R226. -/
  | renderStart
  /-- R228. -/
  | sampleStep
  /-- R229. -/
  | renderComplete
  /-- R101. -/
  | sineLookup (idx : Word)
  /-- R107. -/
  | harmonicCount (r : F)
  /-- R108. -/
  | bandSelect (t : F)
  /-- R110. -/
  | gen (t : F) (p : Word) (r : F)
  /-- R111. -/
  | shapeSine (p : Word)
  /-- R112. -/
  | shapeSlant (p : Word) (n : Nat)
  /-- R113. -/
  | shapeSquare (p : Word) (n : Nat)
  /-- R114. -/
  | shapeSaw (p : Word) (n : Nat)
  /-- R115. -/
  | shapeTri (p : Word) (n : Nat)
  /-- R116. -/
  | shapeImpulse (p : Word) (r : F)
  /-- R134. -/
  | squish (u : F)
  /-- R135. -/
  | fmOff (s : Fin 10)
  /-- R136. -/
  | fmFreq (s : Fin 10)
  /-- R137. -/
  | fmShape (s : Fin 10)
  /-- R138. -/
  | fmRes (s : Fin 10)
  /-- R139. -/
  | amOff (s : Fin 10)
  /-- R140. -/
  | amAmp (s : Fin 10)
  /-- R141. -/
  | amRes (s : Fin 10)
  /-- R142. -/
  | amShape (s : Fin 10)
  /-- R145. -/
  | mulOff (s : Fin 10)
  /-- R146. -/
  | mulAdd (s : Fin 10)
  /-- R147. -/
  | mulSub (s : Fin 10)
  /-- R148. -/
  | mulMul (s : Fin 10)
  /-- R149. -/
  | oscEval (n : Fin 8)
  /-- R150. -/
  | phaseInc (f : F)
  /-- R151. -/
  | phaseAdvance (n : Fin 8) (f : F)
  /-- R162. -/
  | bqActive (j : Fin 3) (x : F)
  /-- R163. -/
  | bqBypass (j : Fin 3) (x : F)
  /-- R164. -/
  | bqCascade (x : F)
  /-- R182. -/
  | crushOff (v : F)
  /-- R183. -/
  | crushHold (v : F)
  /-- R178. -/
  | envInterp
  /-- R179. -/
  | envHold
  /-- R180. -/
  | envAdvance
  /-- R185. -/
  | postScale (e : F) (v : F)
  /-- R186. -/
  | quantWrap (s : F)
  /-- R187. -/
  | quantClamp (s : F)
  deriving DecidableEq, Repr

end Sys2Proof
end

