-- ==== Sys2Proof/Machine/AddressMap.lean ====
section
/-! DEFINITION. The host's address map (R61), the access widths (R81) and which transactions are illegal (R65, R93). -/

namespace Sys2Proof.Machine

/-- The number of bytes of an access (R81). -/
def widthBytes : Width → Nat
  | .w1 => 1
  | .w2 => 2
  | .w4 => 4

/-- The `SIZE` code of a width (R81). -/
def widthCode : Width → BitVec 2
  | .w1 => 0b00#2
  | .w2 => 0b01#2
  | .w4 => 0b10#2

/-- The width a `SIZE` code names; 0b11 is reserved (R81). -/
def widthOf (size : BitVec 2) : Option Width :=
  if size = 0b00#2 then some .w1
  else if size = 0b01#2 then some .w2
  else if size = 0b10#2 then some .w4
  else none

/-- The byte address of a register (R61). -/
def regAddr : RegName → Nat
  | .id => 0x000
  | .ctrl => 0x004
  | .status => 0x008
  | .config => 0x00C
  | .duration => 0x010
  | .length => 0x014
  | .progress => 0x018
  | .irqEn => 0x01C
  | .dial i => 0x100 + 4 * i.val
  | .slot s => 0x200 + 4 * s.val
  | .sectionLength => 0x240
  | .env k => 0x800 + 4 * k.val

/-- The control and status registers in address order (R61). -/
def controlRegs : Vector RegName 8 :=
  #v[.id, .ctrl, .status, .config, .duration, .length, .progress, .irqEn]

/-- The register at a byte address of the register region; none at a reserved address (R61). -/
def regAt (a : Nat) : Option RegName :=
  if a % 4 ≠ 0 then none
  else if h : a / 4 < 8 then some controlRegs[a / 4]
  else if h : 0x100 ≤ a ∧ (a - 0x100) / 4 < 50 then some (.dial ⟨(a - 0x100) / 4, h.2⟩)
  else if h : 0x200 ≤ a ∧ (a - 0x200) / 4 < 10 then some (.slot ⟨(a - 0x200) / 4, h.2⟩)
  else if a = 0x240 then some .sectionLength
  else if h : 0x800 ≤ a ∧ (a - 0x800) / 4 < 466 then some (.env ⟨(a - 0x800) / 4, h.2⟩)
  else none

/-- An address of the buffer region (R61, R93): `ADDR[21]`. -/
def inBuffer (addr : BitVec 22) : Bool := addr.getLsbD 21

/-- The transactions R93 selects as BAD_ACCESS: the reserved size, a misaligned address, and in the register region
a width other than 4 or a reserved address. -/
def isIllegal (size : BitVec 2) (addr : BitVec 22) : Bool :=
  match widthOf size with
  | none => true
  | some w =>
    decide (addr.toNat % widthBytes w ≠ 0) ||
      (!inBuffer addr && (decide (w ≠ .w4) || (regAt addr.toNat).isNone))

end Sys2Proof.Machine
end

