-- ==== Sys2Proof/WellFormed.lean ====
section
/-! DEFINITION. Which terms of `Instr` the decoder or the engine can produce. -/

namespace Sys2Proof

/-- The harmonic counts a generator takes: 1 .. HMAX (R107), where the configuration may set any HMAX (R8). -/
def wfCount (n : Nat) : Bool := decide (1 ≤ n)

/-- Well-formed operations: aligned buffer accesses (R64), BAD_ACCESS only for transactions R93 selects as illegal and
with no data word on a read (R80), and harmonic counts in range (R107). Every other operand is in range by its
type. -/
def wellFormed : Instr → Bool
  | .rdReg _ => true
  | .rdBuf8 _ => true
  | .rdBuf16 i => decide (i.toNat % 2 = 0)
  | .rdBuf32 i => decide (i.toNat % 4 = 0)
  | .wrId _ => true
  | .wrCtrl _ => true
  | .wrStatus _ => true
  | .wrConfig _ => true
  | .wrDuration _ => true
  | .wrLength _ => true
  | .wrProgress _ => true
  | .wrIrqEn _ => true
  | .wrSectionLength _ => true
  | .wrDial _ _ => true
  | .wrSlot _ _ => true
  | .wrEnv _ _ => true
  | .wrBuf w i _ => decide (i.toNat % Machine.widthBytes w = 0)
  | .badAccess we size addr v => Machine.isIllegal size addr && (we || decide (v = 0#32))
  | .renderStart => true
  | .sampleStep => true
  | .renderComplete => true
  | .sineLookup _ => true
  | .harmonicCount _ => true
  | .bandSelect _ => true
  | .gen _ _ _ => true
  | .shapeSine _ => true
  | .shapeSlant _ n => wfCount n
  | .shapeSquare _ n => wfCount n
  | .shapeSaw _ n => wfCount n
  | .shapeTri _ n => wfCount n
  | .shapeImpulse _ _ => true
  | .squish _ => true
  | .fmOff _ => true
  | .fmFreq _ => true
  | .fmShape _ => true
  | .fmRes _ => true
  | .amOff _ => true
  | .amAmp _ => true
  | .amRes _ => true
  | .amShape _ => true
  | .mulOff _ => true
  | .mulAdd _ => true
  | .mulSub _ => true
  | .mulMul _ => true
  | .oscEval _ => true
  | .phaseInc _ => true
  | .phaseAdvance _ _ => true
  | .bqActive _ _ => true
  | .bqBypass _ _ => true
  | .bqCascade _ => true
  | .crushOff _ => true
  | .crushHold _ => true
  | .envInterp => true
  | .envHold => true
  | .envAdvance => true
  | .postScale _ _ => true
  | .quantWrap _ => true
  | .quantClamp _ => true

end Sys2Proof
end

