-- ==== Sys2Proof/Decode.lean ====
section
/-! DEFINITION. The decoders of 30_encoding.md and the encoder written from the same tables.

Two things select an operation (30_encoding, opening): a bus transaction (format BUS), and a selector of the datapath (a
field of `SLOT[s]`, the band code, the derived bits BYP, CRUSH_ON and ENV_SAT, and QMODE). `Code` is such a selection
with the operands that come with it. Rows of format INTERNAL have no encoding: their rule names what invokes them. -/

namespace Sys2Proof

/-- Why a decoder gives no operation. -/
inductive DecodeError where
  /-- Band codes 6 and 7 (R89, I17). -/
  | reservedBand
  /-- Fewer than the 8 bytes of a transaction (log entry 12). -/
  | truncated
  /-- Bits 31:25 of the descriptor word are not 0 (log entry 12). -/
  | reservedDescriptorBits
  deriving DecidableEq, Repr

/-- A selection of an operation, with its operands. -/
inductive Code where
  /-- Format BUS (R80): descriptor and data word. -/
  | bus (T : Desc) (data : Word)
  /-- The FM field of the slot word `w` of slot `s` (R83, R86). -/
  | fm (s : Fin 10) (w : BitVec 6)
  /-- The AM field (R83, R87). -/
  | am (s : Fin 10) (w : BitVec 6)
  /-- The MUL field (R83, R88). -/
  | mul (s : Fin 10) (w : BitVec 6)
  /-- The band code (R89) with the generator's phase, harmonic count and resolution (R110). -/
  | band (b : BitVec 3) (p : Word) (n : Nat) (r : F)
  /-- `BYP_j` (R90) with the section's input. -/
  | byp (b : BitVec 1) (j : Fin 3) (x : F)
  /-- `CRUSH_ON` (R90) with the post-filter sample. -/
  | crush (b : BitVec 1) (v : F)
  /-- `ENV_SAT` (R90). -/
  | env (b : BitVec 1)
  /-- `QMODE` (R90) with the scaled sample. -/
  | quant (b : BitVec 1) (s : F)
  deriving DecidableEq, Repr

/-! ## Fields -/

/-- `WE`, bit 24 of the descriptor (R80). -/
def descWe (T : Desc) : Bool := T.getLsbD 24

/-- `SIZE`, bits 23:22 (R80). -/
def descSize (T : Desc) : BitVec 2 := T.extractLsb' 22 2

/-- `ADDR`, bits 21:0 (R80). -/
def descAddr (T : Desc) : BitVec 22 := T.extractLsb' 0 22

/-- The descriptor of its three fields (R80). -/
def mkDesc (we : Bool) (size : BitVec 2) (addr : BitVec 22) : Desc :=
  (BitVec.ofBool we ++ size ++ addr).cast rfl

/-- `FM`, bits 1:0 of a slot word (R83). -/
def slotFm (w : BitVec 6) : BitVec 2 := w.extractLsb' 0 2

/-- `AM`, bits 3:2 (R83). -/
def slotAm (w : BitVec 6) : BitVec 2 := w.extractLsb' 2 2

/-- `MUL`, bits 5:4 (R83). -/
def slotMul (w : BitVec 6) : BitVec 2 := w.extractLsb' 4 2

/-- The code of a band (R89). -/
def bandCode : Band → BitVec 3
  | .sine => 0#3
  | .slant => 1#3
  | .square => 2#3
  | .saw => 3#3
  | .tri => 4#3
  | .impulse => 5#3

/-- The band of a code; codes 6 and 7 are reserved (R89). -/
def bandOfCode (b : BitVec 3) : Option Band :=
  if b = 0#3 then some .sine
  else if b = 1#3 then some .slant
  else if b = 2#3 then some .square
  else if b = 3#3 then some .saw
  else if b = 4#3 then some .tri
  else if b = 5#3 then some .impulse
  else none

/-! ## Decoders -/

/-- The write operation of a register (R93). -/
def writeOf (r : RegName) (v : Word) : Instr :=
  match r with
  | .id => .wrId v
  | .ctrl => .wrCtrl v
  | .status => .wrStatus v
  | .config => .wrConfig v
  | .duration => .wrDuration v
  | .length => .wrLength v
  | .progress => .wrProgress v
  | .irqEn => .wrIrqEn v
  | .dial i => .wrDial i v
  | .slot s => .wrSlot s v
  | .sectionLength => .wrSectionLength v
  | .env k => .wrEnv k v

/-- The buffer read of a width (R93). -/
def readOf (w : Width) (i : BitVec 21) : Instr :=
  match w with
  | .w1 => .rdBuf8 i
  | .w2 => .rdBuf16 i
  | .w4 => .rdBuf32 i

/-- The decoder of bus transactions (R93), in the spec's order of tests. It is total: every descriptor selects
exactly one operation. A read has no data word (R80), so its operation carries 0. -/
def decodeBus (T : Desc) (data : Word) : Instr :=
  let we := descWe T
  let size := descSize T
  let addr := descAddr T
  let bad := Instr.badAccess we size addr (if we then data else 0#32)
  match Machine.widthOf size with
  | none => bad
  | some w =>
    if addr.toNat % Machine.widthBytes w ≠ 0 then bad
    else if Machine.inBuffer addr then
      (if we then .wrBuf w (addr.extractLsb' 0 21) data else readOf w (addr.extractLsb' 0 21))
    else if w ≠ .w4 then bad
    else
      match Machine.regAt addr.toNat with
      | none => bad
      | some r => if we then writeOf r data else .rdReg r

/-- The FM operation of a field code (R86). -/
def decodeFm (c : BitVec 2) (s : Fin 10) : Instr :=
  if c = 0#2 then .fmOff s else if c = 1#2 then .fmFreq s else if c = 2#2 then .fmShape s else .fmRes s

/-- The AM operation of a field code (R87). -/
def decodeAm (c : BitVec 2) (s : Fin 10) : Instr :=
  if c = 0#2 then .amOff s else if c = 1#2 then .amAmp s else if c = 2#2 then .amRes s else .amShape s

/-- The combine operation of a field code (R88). -/
def decodeMul (c : BitVec 2) (s : Fin 10) : Instr :=
  if c = 0#2 then .mulOff s else if c = 1#2 then .mulAdd s else if c = 2#2 then .mulSub s else .mulMul s

/-- The generator of a band (R110). -/
def decodeBand (b : Band) (p : Word) (n : Nat) (r : F) : Instr :=
  match b with
  | .sine => .shapeSine p
  | .slant => .shapeSlant p n
  | .square => .shapeSquare p n
  | .saw => .shapeSaw p n
  | .tri => .shapeTri p n
  | .impulse => .shapeImpulse p r

/-- The operation a selection stands for, or why there is none. -/
def decode : Code → Except DecodeError Instr
  | .bus T data => .ok (decodeBus T data)
  | .fm s w => .ok (decodeFm (slotFm w) s)
  | .am s w => .ok (decodeAm (slotAm w) s)
  | .mul s w => .ok (decodeMul (slotMul w) s)
  | .band b p n r =>
    match bandOfCode b with
    | some k => .ok (decodeBand k p n r)
    | none => .error .reservedBand
  | .byp b j x => .ok (if b = 1#1 then .bqBypass j x else .bqActive j x)
  | .crush b v => .ok (if b = 1#1 then .crushHold v else .crushOff v)
  | .env b => .ok (if b = 1#1 then .envHold else .envInterp)
  | .quant b s => .ok (if b = 1#1 then .quantClamp s else .quantWrap s)

/-! ## Encoder -/

/-- A 4-byte read of a register (R80, R96). -/
def encodeRead (r : RegName) : Code :=
  .bus (mkDesc false 0b10#2 (BitVec.ofNat 22 (Machine.regAddr r))) 0#32

/-- A 4-byte write of a register (R80, R96). -/
def encodeWrite (r : RegName) (v : Word) : Code :=
  .bus (mkDesc true 0b10#2 (BitVec.ofNat 22 (Machine.regAddr r))) v

/-- An access of the buffer region: `ADDR` is 0x200000 + i (R61). -/
def encodeBuf (we : Bool) (w : Width) (i : BitVec 21) (v : Word) : Code :=
  .bus (mkDesc we (Machine.widthCode w) ((1#1 ++ i).cast rfl)) v

/-- The encoding of an operation; none for the operations no transaction and no selector field names: those of format
INTERNAL, and RENDER_START, whose row shares its transaction with WR_CTRL (R226). -/
def encode : Instr → Option Code
  | .rdReg r => some (encodeRead r)
  | .rdBuf8 i => some (encodeBuf false .w1 i 0#32)
  | .rdBuf16 i => some (encodeBuf false .w2 i 0#32)
  | .rdBuf32 i => some (encodeBuf false .w4 i 0#32)
  | .wrId v => some (encodeWrite .id v)
  | .wrCtrl v => some (encodeWrite .ctrl v)
  | .wrStatus v => some (encodeWrite .status v)
  | .wrConfig v => some (encodeWrite .config v)
  | .wrDuration v => some (encodeWrite .duration v)
  | .wrLength v => some (encodeWrite .length v)
  | .wrProgress v => some (encodeWrite .progress v)
  | .wrIrqEn v => some (encodeWrite .irqEn v)
  | .wrSectionLength v => some (encodeWrite .sectionLength v)
  | .wrDial i v => some (encodeWrite (.dial i) v)
  | .wrSlot s v => some (encodeWrite (.slot s) v)
  | .wrEnv k v => some (encodeWrite (.env k) v)
  | .wrBuf w i v => some (encodeBuf true w i v)
  | .badAccess we size addr v => some (.bus (mkDesc we size addr) v)
  | .renderStart => none
  | .sampleStep => none
  | .renderComplete => none
  | .sineLookup _ => none
  | .harmonicCount _ => none
  | .bandSelect _ => none
  | .gen _ _ _ => none
  | .shapeSine p => some (.band 0#3 p 1 fZero)
  | .shapeSlant p n => some (.band 1#3 p n fZero)
  | .shapeSquare p n => some (.band 2#3 p n fZero)
  | .shapeSaw p n => some (.band 3#3 p n fZero)
  | .shapeTri p n => some (.band 4#3 p n fZero)
  | .shapeImpulse p r => some (.band 5#3 p 1 r)
  | .squish _ => none
  | .fmOff s => some (.fm s 0b000000#6)
  | .fmFreq s => some (.fm s 0b000001#6)
  | .fmShape s => some (.fm s 0b000010#6)
  | .fmRes s => some (.fm s 0b000011#6)
  | .amOff s => some (.am s 0b000000#6)
  | .amAmp s => some (.am s 0b000100#6)
  | .amRes s => some (.am s 0b001000#6)
  | .amShape s => some (.am s 0b001100#6)
  | .mulOff s => some (.mul s 0b000000#6)
  | .mulAdd s => some (.mul s 0b010000#6)
  | .mulSub s => some (.mul s 0b100000#6)
  | .mulMul s => some (.mul s 0b110000#6)
  | .oscEval _ => none
  | .phaseInc _ => none
  | .phaseAdvance _ _ => none
  | .bqActive j x => some (.byp 0#1 j x)
  | .bqBypass j x => some (.byp 1#1 j x)
  | .bqCascade _ => none
  | .crushOff v => some (.crush 0#1 v)
  | .crushHold v => some (.crush 1#1 v)
  | .envInterp => some (.env 0#1)
  | .envHold => some (.env 1#1)
  | .envAdvance => none
  | .postScale _ _ => none
  | .quantWrap s => some (.quant 0#1 s)
  | .quantClamp s => some (.quant 1#1 s)

/-! ## Transactions as bytes (log entry 12) -/

/-- The four bytes of a word, least significant first (R62). -/
def wordBytes (w : Word) : List Byte :=
  [w.extractLsb' 0 8, w.extractLsb' 8 8, w.extractLsb' 16 8, w.extractLsb' 24 8]

/-- A word from its four bytes, least significant first. -/
def bytesWord (b0 b1 b2 b3 : Byte) : Word := (b3 ++ b2 ++ b1 ++ b0).cast rfl

/-- The operation of a transaction record: the descriptor in a 32-bit word with bits 31:25 zero, then the data word,
both little-endian; the bytes after the record are handed back. -/
def decodeBytes : List Byte → Except DecodeError (Instr × List Byte)
  | t0 :: t1 :: t2 :: t3 :: d0 :: d1 :: d2 :: d3 :: rest =>
    let T := bytesWord t0 t1 t2 t3
    if T.extractLsb' 25 7 ≠ 0#7 then .error .reservedDescriptorBits
    else .ok (decodeBus (T.extractLsb' 0 25) (bytesWord d0 d1 d2 d3), rest)
  | _ => .error .truncated

/-- The transaction record of a host operation. -/
def encodeBytes (i : Instr) : Option (List Byte) :=
  match encode i with
  | some (.bus T data) => some (wordBytes (T.setWidth 32) ++ wordBytes data)
  | _ => none

/-! ## The words of spec/opcode_table.json -/

/-- `n` bytes of a number, least significant first. -/
def natBytes : Nat → Nat → List Byte
  | 0, _ => []
  | n + 1, w => BitVec.ofNat 8 w :: natBytes n (w / 256)

/-- The reading of a table word of one byte or less, which names no format: as a band code if it is one, else as a slot
word in which exactly one field is not 0 (log entry 12). The operands, which the word does not carry, are phase 0,
one harmonic, resolution +0.0 and slot 0. -/
def selectorCode (w : BitVec 8) : Option Code :=
  let b := w.extractLsb' 0 3
  let z := w.extractLsb' 0 6
  if w.extractLsb' 3 5 = 0#5 ∧ bandOfCode b ≠ none then some (.band b 0#32 1 fZero)
  else if w.extractLsb' 6 2 ≠ 0#2 then none
  else if slotAm z = 0#2 ∧ slotMul z = 0#2 then some (.fm 0 z)
  else if slotFm z = 0#2 ∧ slotMul z = 0#2 then some (.am 0 z)
  else if slotFm z = 0#2 ∧ slotAm z = 0#2 then some (.mul 0 z)
  else none

/-- The operation the decoders read from a word of the opcode table: a word of more than 8 bits is a transaction (bits
31:0 the descriptor word, bits 63:32 the data word, absent bits 0), a shorter one a selector. -/
def decodeTableWord (nbits w : Nat) : Option Instr :=
  if 2 ^ nbits ≤ w then none
  else if 8 < nbits then
    match decodeBytes (natBytes 8 w) with
    | .ok (i, _) => some i
    | .error _ => none
  else
    match selectorCode (BitVec.ofNat 8 w) with
    | none => none
    | some c =>
      match decode c with
      | .ok i => some i
      | .error _ => none

end Sys2Proof
end

