-- ==== Sys2Proof/Machine/Float.lean ====
section
/-! DEFINITION. The binary32 primitives of R12, R13 and R15, on bit patterns.

Every finite binary32 value is an integer multiple of 2^-149 (the smallest subnormal). `fUnits` is that integer,
so each operation is written as the spec reads: the exact result of the two operands, then one rounding
(`roundRatio`, to nearest, ties to even). The special cases (NaN, infinities, the sign of a zero) are IEEE 754's
(G1, G2), log entry 20. -/

namespace Sys2Proof.Machine

/-! ## Fields and classes -/

/-- Bit 31. -/
def fSign (x : F) : Bool := x.getLsbD 31

/-- The pattern without its sign bit; it orders the magnitudes. -/
def fMag (x : F) : Nat := x.toNat % 2 ^ 31

/-- The biased exponent, bits 30:23 (R82). -/
def fExp (x : F) : Nat := fMag x / 2 ^ 23

/-- The fraction, bits 22:0 (R82). -/
def fFrac (x : F) : Nat := x.toNat % 2 ^ 23

/-- The pattern of +inf without its sign. -/
def infMag : Nat := 255 * 2 ^ 23

/-- `isNaN` (R13). -/
def isNaN (x : F) : Bool := decide (infMag < fMag x)

/-- `isInf` (R13). -/
def isInf (x : F) : Bool := decide (fMag x = infMag)

/-- Neither NaN nor infinite. -/
def isFinite (x : F) : Bool := decide (fMag x < infMag)

/-- +0.0 or -0.0. -/
def isZero (x : F) : Bool := decide (fMag x = 0)

/-- The magnitude of a finite value in units of 2^-149: the significand (with its hidden bit unless subnormal)
scaled by its exponent. -/
def fMagUnits (x : F) : Nat :=
  if fExp x = 0 then fFrac x else (2 ^ 23 + fFrac x) * 2 ^ (fExp x - 1)

/-- A finite value in units of 2^-149. -/
def fUnits (x : F) : Int := if fSign x then -(fMagUnits x : Int) else fMagUnits x

/-! ## Rounding -/

/-- The integer nearest to `n / d`, ties to even. -/
def rneDiv (n d : Nat) : Nat :=
  let q := n / d
  let r := n % d
  if 2 * r < d then q else if d < 2 * r then q + 1 else q + q % 2

/-- The pattern (without sign) of the binary32 value nearest to `num / den` units of 2^-149, ties to even;
an overflow gives the pattern of infinity. For a quotient of `2^(23 + sh)` to `2^(24 + sh)` units the significand is
rounded at `2^sh` units, so its pattern is `sh * 2^23` plus the rounded significand; below 2^24 units every
integer is representable (subnormals and the first binade). -/
def roundRatio (num den : Nat) : Nat :=
  let sh := (num / den).log2 - 23
  min (sh * 2 ^ 23 + rneDiv num (den * 2 ^ sh)) infMag

/-- A pattern from its sign and the rest. -/
def withSign (neg : Bool) (mag : Nat) : F :=
  BitVec.ofNat 32 ((if neg then 2 ^ 31 else 0) + mag)

/-- `RN` of the rational `num / den` (R13), `den > 0`. -/
def fOfRatio (neg : Bool) (num den : Nat) : F := withSign neg (roundRatio (num * 2 ^ 149) den)

/-- `toF(n)` (R13). -/
def toF (n : Nat) : F := fOfRatio false n 1

/-- A quiet NaN whose sign and remaining payload bits are open (R13, I13): log entry 3. -/
def nanOf (op : FloatOp) (a b : F) : F := Config.nanBits op a b ||| 0x7FC00000#32

/-! ## Comparisons (false when either operand is NaN) -/

/-- An integer that orders the patterns of non-NaN values as the values are ordered; both zeros give 0. -/
def fKey (x : F) : Int := if fSign x then -(fMag x : Int) else fMag x

/-- `flt` (R13). -/
def flt (a b : F) : Bool := !isNaN a && !isNaN b && decide (fKey a < fKey b)

/-- `fle` (R13). -/
def fle (a b : F) : Bool := !isNaN a && !isNaN b && decide (fKey a ≤ fKey b)

/-- `fgt` (R13). -/
def fgt (a b : F) : Bool := flt b a

/-- `fge` (R13). -/
def fge (a b : F) : Bool := fle b a

/-- `feq` (R13). -/
def feq (a b : F) : Bool := !isNaN a && !isNaN b && decide (fKey a = fKey b)

/-! ## Arithmetic -/

/-- `fabs` (R13): clears the sign bit. -/
def fabs (x : F) : F := x &&& 0x7FFFFFFF#32

/-- The operand with its sign bit inverted. -/
def fneg (x : F) : F := x ^^^ 0x80000000#32

/-- The sum of two operands, for `fadd` and (with the second negated) `fsub`. An exact sum of zero is -0.0 only
when both operands are negative. -/
def fsum (op : FloatOp) (a b c : F) : F :=
  if isNaN a || isNaN b then nanOf op a c
  else if isInf a then (if isInf b && (fSign a != fSign b) then nanOf op a c else a)
  else if isInf b then b
  else
    let u := fUnits a + fUnits b
    if u = 0 then withSign (fSign a && fSign b) 0
    else withSign (decide (u < 0)) (roundRatio u.natAbs 1)

/-- `fadd` (R13). -/
def fadd (a b : F) : F := fsum .add a b b

/-- `fsub` (R13): a + (-b). -/
def fsub (a b : F) : F := fsum .sub a (fneg b) b

/-- `fmul` (R13). -/
def fmul (a b : F) : F :=
  let neg := fSign a != fSign b
  if isNaN a || isNaN b then nanOf .mul a b
  else if isInf a || isInf b then
    (if isZero a || isZero b then nanOf .mul a b else withSign neg infMag)
  else withSign neg (roundRatio (fMagUnits a * fMagUnits b) (2 ^ 149))

/-- `fdiv` (R13). -/
def fdiv (a b : F) : F :=
  let neg := fSign a != fSign b
  if isNaN a || isNaN b then nanOf .div a b
  else if isInf a then (if isInf b then nanOf .div a b else withSign neg infMag)
  else if isInf b then withSign neg 0
  else if isZero b then (if isZero a then nanOf .div a b else withSign neg infMag)
  else withSign neg (roundRatio (fMagUnits a * 2 ^ 149) (fMagUnits b))

/-! ## Conversions to integers (of finite values) -/

/-- `floorF` (R13): the mathematical floor of a finite value. -/
def floorF (x : F) : Int := (fUnits x).fdiv (2 ^ 149)

/-- `truncF` (R13): truncation toward zero of a finite value. -/
def truncF (x : F) : Int := (fUnits x).tdiv (2 ^ 149)

/-- `roundTiesEven(x * 2^32)` of a finite value, the exact product rounded to an integer (R150). -/
def roundTurns (x : F) : Int :=
  let m : Int := rneDiv (fMagUnits x) (2 ^ 117)
  if fSign x then -m else m

/-- `clamp` on the integers (R10). -/
def clampInt (x lo hi : Int) : Int := min (max x lo) hi

/-! ## TANH -/

/-- `TANH` with exactly the properties of R15: NaN to NaN, ±inf to ±1.0, ±0 to itself, and for any other
operand an open value of magnitude at most 1.0 that depends on the operand alone (log entry 4). -/
def tanhF (x : F) : F :=
  if isNaN x then nanOf .tanh x x
  else if isInf x then (if fSign x then fNegOne else fOne)
  else if isZero x then x
  else
    let y := Config.tanhBits x
    withSign (fSign y) (fMag y % (fMag fOne + 1))

end Sys2Proof.Machine
end

