-- ==== Sys2Proof/Machine/Params.lean ====
section
/-! DEFINITION. The configuration after reset: the spec's defaults where R8 gives one, and the opaque constants of
Config, brought into the constraints of R9, where R8 says OPEN. -/

namespace Sys2Proof.Machine

/-- A finite value from any pattern; every finite value is its own image (R9: `DIAL_SCALE[i]` is finite). -/
def asFinite (x : F) : F := if isFinite x then x else fZero

/-- `IMP_W[k+1]` made non-increasing (R9): a value above its predecessor, or NaN, is replaced by the predecessor. -/
def impWeight : Nat → F
  | 0 => if isNaN (Config.impW 0) then fZero else Config.impW 0
  | k + 1 => if fle (Config.impW (k + 1)) (impWeight k) then Config.impW (k + 1) else impWeight k

/-- The configuration after reset (log entries 1, 2 and 5). -/
def resetParams : Params where
  sampleRate := Config.defaultSampleRate
  maxClip := Config.defaultMaxClip
  hmax := Config.defaultHmax
  harmonics := .standard
  dialScale := Vector.ofFn fun i => asFinite (Config.dialScale i)
  dialPolarity := Vector.ofFn fun i => Config.dialPolarity i
  impH := Vector.ofFn fun k => max 1 (Config.impH k)
  impW := Vector.ofFn fun k => impWeight k
  impT := Vector.ofFn fun k => Config.impT k

end Sys2Proof.Machine
end

