-- ==== Sys2Proof/Machine/State.lean ====
section
/-! DEFINITION. The state of the block (10_state.md), its events, and the state after reset (R47). -/

namespace Sys2Proof.Machine

/-- What stops the machine with a fault. There is nothing: "The block raises no exception and takes no trap. No
operation stops, aborts or redirects anything on an error" (R240; log entry 18). -/
inductive Fault where
  deriving DecidableEq, Repr

/-- Why an operation has no meaning in the model. -/
inductive Refusal where
  /-- Raised by an arm of `exec` whose operation has no meaning yet; no arm of this model raises it. Safe: the
  machine stops. -/
  | notModelled (mnemonic : String)
  deriving DecidableEq, Repr

/-- What a meaning answers. -/
abbrev Result (σ : Type) := Host.Outcome σ Fault Refusal

/-- Memory of bytes: (index, byte) pairs in one canonical form, see `Memory.wf`. -/
abbrev Memory := List Host.Cell

/-- The patch parameter file (R20 to R25). -/
structure Patch where
  /-- `DIAL[0..49]` (R21). -/
  dial : Vector F 50
  /-- `SLOT[0..9]`, FM in bits 1:0, AM in 3:2, MUL in 5:4 (R23, R83). -/
  slot : Vector (BitVec 6) 10
  /-- `ENV[0..465]` (R24). -/
  env : Vector F 466
  /-- `SECTION_LENGTH` (R25, R84). -/
  sectionLength : BitVec 6
  deriving DecidableEq, Repr

/-- The history of one biquad section (R37). -/
structure Biquad where
  x1 : F
  x2 : F
  y1 : F
  y2 : F
  deriving DecidableEq, Repr

/-- The render state (R36 to R40). -/
structure Render where
  /-- `PHASE[1..8]`, oscillator On at index n-1 (R36). -/
  phase : Vector Word 8
  /-- `BQ[1..3]`, section j at index j-1 (R37). -/
  bq : Vector Biquad 3
  /-- `SEG` (R38). -/
  seg : Nat
  /-- `STEP` (R38). -/
  step : Nat
  /-- `CNT` (R39). -/
  cnt : Nat
  /-- `VAL` (R39). -/
  val : F
  /-- `TOTAL` (R40). -/
  total : Nat
  /-- `SPS` (R40). -/
  sps : Nat
  /-- `CL` (R40). -/
  cl : Nat
  /-- `DCV` (R40). -/
  dcv : F
  deriving DecidableEq, Repr

/-- The values a sample step passes between its operations (R41, R143, R175). Between transitions it is at rest: the
spec does not count it as state (log entry 8). -/
structure Datapath where
  /-- `O[1..8]`, oscillator On at index n-1 (R41). -/
  o : Vector F 8
  /-- Working frequency of the target oscillator (R143). -/
  f : F
  /-- Working amplitude. -/
  a : F
  /-- Working resolution. -/
  r : F
  /-- Working shape selector. -/
  t : F
  /-- The target's sample after R144. -/
  g : F
  /-- The value returned by SINE_LOOKUP, GEN, SHAPE_* and SQUISH. -/
  y : F
  /-- The value returned by HARMONIC_COUNT. -/
  n : Nat
  /-- The value returned by BAND_SELECT (R89). -/
  band : Band
  /-- The value returned by PHASE_INC. -/
  inc : Word
  /-- The sample between the filter and the envelope: returned by BQ_* and CRUSH_* (R175). -/
  v : F
  /-- The envelope value (R175). -/
  e : F
  /-- The scaled sample (R185). -/
  s : F
  /-- The quantized byte (R188). -/
  q : Byte
  deriving DecidableEq, Repr

/-- What happens next to the block (R6): a host transaction (R80), a turn of the render engine, or an assertion of
the reset input (R262). -/
inductive Event where
  | host (T : Desc) (data : Word)
  | engine
  | reset
  deriving DecidableEq, Repr

/-- The state of the block. `ID` is a constant and `CTRL` stores nothing (R27, R28), so neither has a field; `irq` is a
function of the state (R35). -/
structure State where
  /-- The configuration record of R8, which no transition changes (log entry 1). -/
  cfg : Params
  /-- The resident patch. -/
  patch : Patch
  /-- `STATUS.BUSY` (R29): the mode of R45. -/
  busy : Bool
  /-- `STATUS.DONE` (R29). -/
  done : Bool
  /-- `STATUS.ERR_BUSY` (R29). -/
  errBusy : Bool
  /-- `STATUS.ERR_ADDR` (R29). -/
  errAddr : Bool
  /-- `CONFIG.QMODE` (R30): false is WRAP, true is CLAMP. -/
  qmode : Bool
  /-- `DURATION` (R31). -/
  duration : Word
  /-- `LENGTH` (R32). -/
  length : Word
  /-- `PROGRESS` (R33). -/
  progress : Word
  /-- `IRQ_EN.DONE_IE` (R34). -/
  doneIe : Bool
  /-- The render state. -/
  render : Render
  /-- `BUF` (R42), keyed by sample index. -/
  buf : Memory
  /-- The transient values of a sample step (R41). -/
  dp : Datapath
  /-- The data the last host read returned (log entry 7). -/
  rdata : Word
  /-- The schedule: what happens next, oldest first (R6, R70; log entry 6). -/
  agenda : List Event
  deriving DecidableEq, Repr

/-- The zero-initialised patch (R26). -/
def Patch.initial : Patch where
  dial := Vector.replicate 50 fZero
  slot := Vector.replicate 10 0#6
  env := Vector.replicate 466 fZero
  sectionLength := Config.resetSectionLength

/-- A biquad history of +0.0 (R37). -/
def Biquad.zero : Biquad := ⟨fZero, fZero, fZero, fZero⟩

/-- The render state after a hardware reset (R47). -/
def Render.initial : Render where
  phase := Vector.replicate 8 0#32
  bq := Vector.replicate 3 Biquad.zero
  seg := 0
  step := 0
  cnt := 0
  val := fZero
  total := 0
  sps := 0
  cl := 0
  dcv := fZero

/-- The working set between transitions (R41, log entry 8). -/
def Datapath.rest : Datapath where
  o := Vector.replicate 8 fZero
  f := fZero
  a := fZero
  r := fZero
  t := fZero
  g := fZero
  y := fZero
  n := 0
  band := .sine
  inc := 0#32
  v := fZero
  e := fZero
  s := fZero
  q := 0#8

/-- The block right after a hardware reset (R47, R260). `BUF` lists nothing (log entry 9), the configuration is
`resetParams` (log entries 1, 2 and 5), and no event is pending. -/
def State.reset : State where
  cfg := resetParams
  patch := Patch.initial
  busy := false
  done := false
  errBusy := false
  errAddr := false
  qmode := false
  duration := 0#32
  length := 0#32
  progress := 0#32
  doneIe := false
  render := Render.initial
  buf := []
  dp := Datapath.rest
  rdata := 0#32
  agenda := []

end Sys2Proof.Machine
end

