-- ==== Sys2Proof/Machine/Ops.lean ====
section
/-! DEFINITION. The named operations over the state: the output buffer, the register writes, the return of read data,
and the hardware reset. The block takes no exception and returns from none (R240, R247); what stands in its place
(R11), setting a sticky flag, is in Machine/Flags.lean. -/

namespace Sys2Proof.Machine

/-! ## The output buffer as memory (R42) -/

/-- What an unlisted entry reads as (log entry 9). -/
def emptyByte : Byte := 0#8

/-- The byte at an index. -/
def Memory.read : Memory → Nat → Byte
  | [], _ => emptyByte
  | (b, w) :: m, a => if a = b then w else Memory.read m a

/-- The memory with one byte written, in canonical form: the byte an unlisted entry reads as is not listed. -/
def Memory.write : Memory → Nat → Byte → Memory
  | [], a, v => if v = emptyByte then [] else [(a, v)]
  | (b, w) :: m, a, v =>
    if a < b then (if v = emptyByte then (b, w) :: m else (a, v) :: (b, w) :: m)
    else if a = b then (if v = emptyByte then m else (a, v) :: m)
    else (b, w) :: Memory.write m a v

/-- The canonical form: indices strictly rising, and no entry equal to what an unlisted entry reads as. -/
abbrev Memory.wf (m : Memory) : Prop :=
  m.Pairwise (fun x y => x.1 < y.1) ∧ ∀ c ∈ m, c.2 ≠ emptyByte

/-- The sample at an index. -/
def State.bufByte (s : State) (i : Nat) : Byte := Memory.read s.buf i

/-- `BUF[i] <- v`. -/
def State.writeBuf (s : State) (i : Nat) (v : Byte) : State := { s with buf := Memory.write s.buf i v }

/-- One byte lane of a buffer read (R69): nothing while rendering, silent past the end. -/
def State.bufLane (s : State) (i : Nat) : Byte :=
  if s.busy || decide (s.length.toNat ≤ i) then 0#8 else s.bufByte i

/-- The value of a buffer read of `n` bytes from index `i` (R223): lane k in bits 8k+7:8k, no sign extension. -/
def State.bufLanes (s : State) (i : Nat) : Nat → Nat
  | 0 => 0
  | n + 1 => (s.bufLane i).toNat + 256 * s.bufLanes (i + 1) n

/-- The data word of a buffer read of `n` bytes (R62, R223). -/
def State.bufRead (s : State) (i n : Nat) : Word := BitVec.ofNat 32 (s.bufLanes i n)

/-! ## Named updates -/

/-- The data a host read returns. -/
def State.respond (s : State) (v : Word) : State := { s with rdata := v }

/-- `DIAL[i] <- x`. -/
def State.setDial (s : State) (i : Fin 50) (x : F) : State :=
  { s with patch := { s.patch with dial := s.patch.dial.set i x } }

/-- `SLOT[k] <- w`. -/
def State.setSlot (s : State) (k : Fin 10) (w : BitVec 6) : State :=
  { s with patch := { s.patch with slot := s.patch.slot.set k w } }

/-- `ENV[k] <- x`. -/
def State.setEnv (s : State) (k : Fin 466) (x : F) : State :=
  { s with patch := { s.patch with env := s.patch.env.set k x } }

/-- `SECTION_LENGTH <- v`. -/
def State.setSectionLength (s : State) (v : BitVec 6) : State :=
  { s with patch := { s.patch with sectionLength := v } }

/-- `QMODE <- b`. -/
def State.setQmode (s : State) (b : Bool) : State := { s with qmode := b }

/-- `DURATION <- v`. -/
def State.setDuration (s : State) (v : Word) : State := { s with duration := v }

/-- `DONE_IE <- b`. -/
def State.setDoneIe (s : State) (b : Bool) : State := { s with doneIe := b }

/-- `PROGRESS <- v`. -/
def State.setProgress (s : State) (v : Word) : State := { s with progress := v }

/-- The render state replaced. -/
def State.setRender (s : State) (r : Render) : State := { s with render := r }

/-- The working set replaced. -/
def State.setDp (s : State) (d : Datapath) : State := { s with dp := d }

/-- The schedule replaced. -/
def State.setAgenda (s : State) (l : List Event) : State := { s with agenda := l }

/-- `PHASE[n] <- p`. -/
def State.setPhase (s : State) (n : Fin 8) (p : Word) : State :=
  s.setRender { s.render with phase := s.render.phase.set n p }

/-- `BQ[j] <- h`. -/
def State.setBq (s : State) (j : Fin 3) (h : Biquad) : State :=
  s.setRender { s.render with bq := s.render.bq.set j h }

/-- `O[n] <- x` of the current sample. -/
def State.setO (s : State) (n : Fin 8) (x : F) : State :=
  s.setDp { s.dp with o := s.dp.o.set n x }

/-! ## Hardware reset -/

/-- The reset transition (R260 to R262): every element takes its value of R47. `BUF` is not cleared (R260); the
configuration, the data already returned to the host and the schedule are not the block's registers and stay
(log entry 14). -/
def State.hardwareReset (s : State) : State :=
  { State.reset with cfg := s.cfg, buf := s.buf, rdata := s.rdata, agenda := s.agenda }

end Sys2Proof.Machine
end

