-- ==== Sys2Proof/Machine/Flags.lean ====
section
/-! DEFINITION. The flags of `STATUS` (R29), the busy check (R212), and the interrupt output (R35). Setting one of the two
sticky flags takes the place of raising an exception (R11, R240). -/

namespace Sys2Proof.Machine

/-- `set STATUS.ERR_ADDR` (R242). -/
def State.setErrAddr (s : State) : State := { s with errAddr := true }

/-- `set STATUS.ERR_BUSY` (R243). -/
def State.setErrBusy (s : State) : State := { s with errBusy := true }

/-- A busy-checked write (R212): ignored with ERR_BUSY while a render runs, else the operation's own effect. -/
def State.busyChecked (s : State) (effect : State → State) : State :=
  if s.busy then s.setErrBusy else effect s

/-- `STATUS` as read: ERR_ADDR, ERR_BUSY, DONE, BUSY in bits 3:0 (R211). -/
def State.statusWord (s : State) : Word :=
  (BitVec.ofBool s.errAddr ++ BitVec.ofBool s.errBusy ++ BitVec.ofBool s.done ++ BitVec.ofBool s.busy).setWidth 32

/-- Write-one-to-clear of DONE, ERR_BUSY and ERR_ADDR by bits 1, 2 and 3 (R214). -/
def State.clearStatus (s : State) (v : Word) : State :=
  { s with
    done := s.done && !v.getLsbD 1
    errBusy := s.errBusy && !v.getLsbD 2
    errAddr := s.errAddr && !v.getLsbD 3 }

/-- The end of a render: `BUSY <- 0`, `DONE <- 1` (R229). -/
def State.complete (s : State) : State := { s with busy := false, done := true }

/-- The interrupt output, the level DONE AND DONE_IE (R35, R245). -/
def State.irq (s : State) : Bool := s.done && s.doneIe

end Sys2Proof.Machine
end

