-- ==== Sys2Proof/Machine/Sine.lean ====
section
/-! DEFINITION. The constant tables of R43 and R44: the sine lookup table and the reciprocal table.

`SINE[k]` is the correctly rounded sine of k/65536 turn (R100). The table is computed here by integer arithmetic: the
Taylor polynomial of degree 27 at a 128-bit approximation of the angle, within 2^-80 of the sine, then one
rounding (log entry 10). -/

namespace Sys2Proof.Machine

/-- The fixed-point scale of the table's computation: values are in units of 2^-128. -/
def sineScale : Nat := 128

/-- pi in units of 2^-128, rounded to nearest. -/
def piFixed : Nat := 1069028584064966747859680373161870783301

/-- `n` more terms of the Taylor series of the sine, summed from the last: `x2` is the square of the angle, `term` the
current term (both in units of 2^-128), `i` its degree. The terms fall for angles up to a quarter turn, so the
difference of naturals is exact. -/
def sineTail (x2 : Nat) : Nat → Nat → Nat → Nat
  | 0, _, term => term
  | n + 1, i, term => term - sineTail x2 n (i + 2) (term * x2 / 2 ^ sineScale / ((i + 1) * (i + 2)))

/-- The sine of j/65536 turn in units of 2^-128, for j in the first quarter (0 .. 16384). -/
def sineQuarter (j : Nat) : Nat :=
  let x := piFixed * j / 32768
  sineTail (x * x / 2 ^ sineScale) 13 1 x

/-- The index folded into the first quarter by the table's symmetries (R100). -/
def sineFold (k : Nat) : Nat :=
  let h := k % 32768
  if h ≤ 16384 then h else 32768 - h

/-- `SINE[k]` (R100). -/
def sine (k : BitVec 16) : F :=
  let j := sineFold k.toNat
  fOfRatio (decide (32768 < k.toNat)) (sineQuarter j) (2 ^ sineScale)

/-- `SINE_LOOKUP(idx)` (R101): the index is masked to its low 16 bits. -/
def sineAt (idx : Word) : F := sine (idx.extractLsb' 0 16)

/-- `hidx(h, p)` (R103): bits 31:16 of the low 32 bits of h times p. -/
def hidx (h : Nat) (p : Word) : BitVec 16 := (BitVec.ofNat 32 (h * p.toNat)).extractLsb' 16 16

/-- `RECIP[h] = RN(1/h)`, h = 1..30 (R44, R106). -/
def recip (h : Nat) : F := fOfRatio false 1 h

/-- `w1(h)` (R104): the table for the first 30 harmonics and the direct reciprocal beyond (R106). -/
def w1 (h : Nat) : F := if h ≤ Config.recipTableSize then recip h else fOfRatio false 1 h

/-- `w2(h) = RN(1/(h*h))` (R105). -/
def w2 (h : Nat) : F := fOfRatio false 1 (h * h)

end Sys2Proof.Machine
end

