-- ==== Sys2Proof/Machine/Operands.lean ====
section
/-! DEFINITION. Operand assembly (30_encoding.md section 3): what the datapath reads from the patch, the derived mode bits of R90,
the fixed topology of the oscillator tree (R131 to R133), and the clamps of the patch writes. -/

namespace Sys2Proof.Machine

/-! ## Dials -/

/-- The physical value `P(i)` of a dial (R91). -/
def State.phys (s : State) (i : Fin 50) : F := fmul s.patch.dial[i] s.cfg.dialScale[i]

/-- Base frequency of oscillator On, n - 1 : Fin 8 (R130). -/
def State.baseF (s : State) (n : Fin 8) : F := s.phys ⟨4 * n.val, by omega⟩

/-- Base amplitude (R130). -/
def State.baseA (s : State) (n : Fin 8) : F := s.phys ⟨4 * n.val + 1, by omega⟩

/-- Base resolution (R130). -/
def State.baseR (s : State) (n : Fin 8) : F := s.phys ⟨4 * n.val + 2, by omega⟩

/-- Base shape selector (R130). -/
def State.baseT (s : State) (n : Fin 8) : F := s.phys ⟨4 * n.val + 3, by omega⟩

/-- Coefficient `c` of section j, j - 1 : Fin 3, in the order b1, b2, b3, a1, a2 (R160). -/
def State.coeff (s : State) (j : Fin 3) (c : Fin 5) : F := s.phys ⟨32 + 5 * j.val + c.val, by omega⟩

/-! ## Topology (R131 to R133) -/

/-- `TGT(s)` (R131), O1 as 0. -/
def slotTarget (s : Fin 10) : Fin 8 := (#v[3, 6, 2, 2, 5, 1, 1, 4, 0, 0] : Vector (Fin 8) 10)[s]

/-- `SRC(s)` (R131), O1 as 0. -/
def slotSource (s : Fin 10) : Fin 8 := (#v[7, 7, 3, 6, 6, 2, 5, 5, 1, 4] : Vector (Fin 8) 10)[s]

/-- `INPUTS(On)` in ascending slot id (R132): the slots whose target it is. -/
def slotInputs (n : Fin 8) : List (Fin 10) :=
  ([0, 1, 2, 3, 4, 5, 6, 7, 8, 9] : List (Fin 10)).filter fun s => slotTarget s = n

/-- `EVAL_ORDER` (R133): O8, O7, O4, O3, O6, O2, O5, O1. -/
def evalOrder : List (Fin 8) := [7, 6, 3, 2, 5, 1, 4, 0]

/-- The upstream sample of a slot: `O[SRC(s)]` of the current sample (R133). -/
def State.upstream (s : State) (k : Fin 10) : F := s.dp.o[slotSource k]

/-! ## Latched constants -/

/-- `totalSamples` (R227), in exact arithmetic. -/
def State.totalSamples (s : State) : Nat := min (s.cfg.sampleRate * s.duration.toNat) s.cfg.maxClip

/-- `SPS` of a sample count (R176). -/
def samplesPerSegment (total : Nat) : Nat := max 1 (total / Config.nEnv)

/-- 466.0 (R14). -/
def f466 : F := 0x43E90000#32

/-- 33.0 (R14). -/
def f33 : F := 0x42040000#32

/-- `SEG0` (R177): `DIAL[47]` is used unscaled. -/
def State.startSegment (s : State) : Nat := (clampInt (floorF (fmul s.patch.dial[47] f466)) 0 465).toNat

/-- `CL` (R181): `DIAL[49]` is used unscaled. -/
def State.crushLength (s : State) : Nat := (clampInt (floorF (fmul s.patch.dial[49] f33)) 0 33).toNat

/-- `DCV = P(48)` (R184). -/
def State.dcValue (s : State) : F := s.phys 48

/-! ## Derived mode bits (R90) -/

/-- RN(0.01) (R14). -/
def f001 : F := 0x3C23D70A#32

/-- `BYP_j` (R161): all five coefficients within RN(0.01) of zero. -/
def State.bypassed (s : State) (j : Fin 3) : Bool :=
  fle (fabs (s.coeff j 0)) f001 && fle (fabs (s.coeff j 1)) f001 && fle (fabs (s.coeff j 2)) f001 &&
    fle (fabs (s.coeff j 3)) f001 && fle (fabs (s.coeff j 4)) f001

/-- `CRUSH_ON` (R90). -/
def State.crushOn (s : State) : Bool := decide (0 < s.render.cl)

/-- `ENV_SAT` (R90). -/
def State.envSat (s : State) : Bool := decide (s.render.seg = Config.lastSeg)

/-! ## Clamps of the patch writes -/

/-- The stored value of a binary32 write to a range `lo` .. 1.0 (R217, R220): NaN gives +0.0, a value outside the range
the bound it passes, -0.0 is kept. -/
def clampWrite (lo x : F) : F :=
  if isNaN x then fZero else if flt x lo then lo else if fgt x fOne then fOne else x

/-- The lower bound of a dial's range (R217). -/
def dialLow : Polarity → F
  | .uni => fZero
  | .bi => fNegOne

/-- The stored value of a `SECTION_LENGTH` write (R219): the signed value wrapped into 1 .. 33. -/
def wrapSection (v : Word) : BitVec 6 := BitVec.ofInt 6 ((v.toInt - 1) % 33 + 1)

end Sys2Proof.Machine
end

