-- ==== Sys2Proof/Machine/Waveform.lean ====
section
/-! DEFINITION. The waveform generator (40_waveform.md): the six shapes as pure functions of phase, harmonic count and
resolution (R117), and the meanings of their operations. A value an operation returns goes to the working set. -/

namespace Sys2Proof.Machine

/-! ## Harmonic count and band -/

/-- The spec's default `HARMONIC_COUNT(r)` with `HMAX` = `hmax` (R107). -/
def standardHarmonicCount (hmax : Nat) (r : F) : Nat :=
  if isNaN r || flt r fOne then 1
  else if isInf r then hmax
  else min (floorF r).toNat hmax

/-- The value of a harmonic count function given as steps (log entry 5). -/
def stepHarmonicCount (t : HarmonicSteps) (r : F) : Nat :=
  if isNaN r then t.atNaN
  else if isInf r then (if fSign r then t.atNegInf else t.atPosInf)
  else 1 + t.rises.countP fun x => fge r x

/-- `HARMONIC_COUNT(r)` of the configuration (R8, R107). -/
def harmonicCount (cfg : Params) (r : F) : Nat :=
  match cfg.harmonics with
  | .standard => standardHarmonicCount cfg.hmax r
  | .steps t => stepHarmonicCount t r

/-- `TH[1..5]` (R108): RN(k/6). -/
def bandThresholds : List F := [0x3E2AAAAB#32, 0x3EAAAAAB#32, 0x3F000000#32, 0x3F2AAAAB#32, 0x3F555555#32]

/-- The number of thresholds at or below `t` (R108). -/
def bandIndex (t : F) : Nat := bandThresholds.countP fun th => fge t th

/-- `BAND(t)` (R108). -/
def bandOf (t : F) : Band := (bandOfCode (BitVec.ofNat 3 (bandIndex t))).getD .impulse

/-! ## The six shapes -/

/-- Harmonic `h` of phase `p` from the table (R103). -/
def sineHarmonic (h : Nat) (p : Word) : F := sine (hidx h p)

/-- One more term of a harmonic sum. -/
def addTerm (w : F) (h : Nat) (p : Word) (acc : F) : F := fadd acc (fmul w (sineHarmonic h p))

/-- R111: the fundamental. -/
def shapeSine (p : Word) : F := sine (p.extractLsb' 16 16)

/-- R112: the fundamental plus the odd harmonics 3, 5, .. up to N weighted 1/h². -/
def shapeSlant (p : Word) (n : Nat) : F :=
  (List.range ((n - 1) / 2)).foldl (fun acc k => addTerm (w2 (2 * k + 3)) (2 * k + 3) p acc) (sineHarmonic 1 p)

/-- R113: the odd harmonics 1, 3, .. up to N weighted 1/h. -/
def shapeSquare (p : Word) (n : Nat) : F :=
  (List.range ((n + 1) / 2)).foldl (fun acc k => addTerm (w1 (2 * k + 1)) (2 * k + 1) p acc) fZero

/-- R114: all harmonics up to N weighted 1/h. -/
def shapeSaw (p : Word) (n : Nat) : F :=
  (List.range n).foldl (fun acc k => addTerm (w1 (k + 1)) (k + 1) p acc) fZero

/-- R115: the odd harmonics up to N weighted 1/h², with alternating sign, harmonic 1 positive. -/
def shapeTri (p : Word) (n : Nat) : F :=
  (List.range ((n + 1) / 2)).foldl
    (fun acc k =>
      let term := fmul (w2 (2 * k + 1)) (sineHarmonic (2 * k + 1) p)
      if k % 2 = 0 then fadd acc term else fsub acc term)
    fZero

/-- R116: the impulse partials whose threshold the resolution reaches, in ascending k. -/
def shapeImpulse (cfg : Params) (p : Word) (r : F) : F :=
  (List.finRange 10).foldl
    (fun acc k => if fge r cfg.impT[k] then addTerm cfg.impW[k] cfg.impH[k] p acc else acc)
    fZero

/-- R110: exactly one shape, chosen by the band; no blending (R109). -/
def genBand (cfg : Params) (b : Band) (p : Word) (n : Nat) (r : F) : F :=
  match b with
  | .sine => shapeSine p
  | .slant => shapeSlant p n
  | .square => shapeSquare p n
  | .saw => shapeSaw p n
  | .tri => shapeTri p n
  | .impulse => shapeImpulse cfg p r

/-- `GEN(t, p, r)` (R110). -/
def genWave (cfg : Params) (t : F) (p : Word) (r : F) : F := genBand cfg (bandOf t) p (harmonicCount cfg r) r

/-! ## Meanings -/

/-- The value an operation returns, in the working set. -/
def State.returnY (s : State) (y : F) : State := s.setDp { s.dp with y := y }

/-- R101. -/
def execSineLookup (idx : Word) (s : State) : Result State := .next (s.returnY (sineAt idx))

/-- R107. -/
def execHarmonicCount (r : F) (s : State) : Result State := .next (s.setDp { s.dp with n := harmonicCount s.cfg r })

/-- R108. -/
def execBandSelect (t : F) (s : State) : Result State := .next (s.setDp { s.dp with band := bandOf t })

/-- R110. -/
def execGen (t : F) (p : Word) (r : F) (s : State) : Result State := .next (s.returnY (genWave s.cfg t p r))

/-- R111. -/
def execShapeSine (p : Word) (s : State) : Result State := .next (s.returnY (shapeSine p))

/-- R112. -/
def execShapeSlant (p : Word) (n : Nat) (s : State) : Result State := .next (s.returnY (shapeSlant p n))

/-- R113. -/
def execShapeSquare (p : Word) (n : Nat) (s : State) : Result State := .next (s.returnY (shapeSquare p n))

/-- R114. -/
def execShapeSaw (p : Word) (n : Nat) (s : State) : Result State := .next (s.returnY (shapeSaw p n))

/-- R115. -/
def execShapeTri (p : Word) (n : Nat) (s : State) : Result State := .next (s.returnY (shapeTri p n))

/-- R116. -/
def execShapeImpulse (p : Word) (r : F) (s : State) : Result State := .next (s.returnY (shapeImpulse s.cfg p r))

end Sys2Proof.Machine
end

