-- ==== Sys2Proof/Machine/Modulation.lean ====
section
/-! DEFINITION. The FM/AM router and the phase accumulator (41_modulation.md). The selector operations act on the working
parameters f, a, r, t and the sample g of the target oscillator, which the working set holds; the upstream sample of
slot k is `O[SRC(k)]`. -/

namespace Sys2Proof.Machine

/-- `SQUISH(u)` (R134). -/
def squish (u : F) : F := fabs (tanhF u)

/-! ## Selector operations on the working parameters -/

/-- R136. -/
def State.fmFreq (s : State) (k : Fin 10) : State := s.setDp { s.dp with f := fmul s.dp.f (s.upstream k) }

/-- R137 and R142: the shape selector scaled by the squished upstream sample. -/
def State.scaleShape (s : State) (k : Fin 10) : State :=
  s.setDp { s.dp with t := fmul s.dp.t (squish (s.upstream k)) }

/-- R138 and R141: the resolution scaled by the squished upstream sample. -/
def State.scaleRes (s : State) (k : Fin 10) : State :=
  s.setDp { s.dp with r := fmul s.dp.r (squish (s.upstream k)) }

/-- R140. -/
def State.amAmp (s : State) (k : Fin 10) : State := s.setDp { s.dp with a := fmul s.dp.a (s.upstream k) }

/-- R146. -/
def State.mulAdd (s : State) (k : Fin 10) : State := s.setDp { s.dp with g := fadd s.dp.g (s.upstream k) }

/-- R147: target minus source. -/
def State.mulSub (s : State) (k : Fin 10) : State := s.setDp { s.dp with g := fsub s.dp.g (s.upstream k) }

/-- R148. -/
def State.mulMul (s : State) (k : Fin 10) : State := s.setDp { s.dp with g := fmul s.dp.g (s.upstream k) }

/-- The FM operation the slot's field selects (R86, R149). -/
def State.applyFm (s : State) (k : Fin 10) : State :=
  let c := slotFm s.patch.slot[k]
  if c = 0#2 then s else if c = 1#2 then s.fmFreq k else if c = 2#2 then s.scaleShape k else s.scaleRes k

/-- The AM operation the slot's field selects (R87, R149); codes 2 and 3 are the opposite of FM's. -/
def State.applyAm (s : State) (k : Fin 10) : State :=
  let c := slotAm s.patch.slot[k]
  if c = 0#2 then s else if c = 1#2 then s.amAmp k else if c = 2#2 then s.scaleRes k else s.scaleShape k

/-- The combine operation the slot's field selects (R88, R149). -/
def State.applyMul (s : State) (k : Fin 10) : State :=
  let c := slotMul s.patch.slot[k]
  if c = 0#2 then s else if c = 1#2 then s.mulAdd k else if c = 2#2 then s.mulSub k else s.mulMul k

/-! ## Phase accumulator -/

/-- `PHASE_INC(f)` at a sample rate (R150). -/
def phaseInc (rate : Nat) (f : F) : Word :=
  if isNaN f || isInf f then 0#32 else BitVec.ofInt 32 (roundTurns (fdiv f (toF rate)))

/-- `PHASE_ADVANCE(n, f)` (R151): addition modulo 2^32. -/
def State.phaseAdvance (s : State) (n : Fin 8) (f : F) : State :=
  s.setPhase n (s.render.phase[n] + phaseInc s.cfg.sampleRate f)

/-! ## One oscillator -/

/-- The base parameters of On loaded as working parameters (R130). -/
def State.loadBase (s : State) (n : Fin 8) : State :=
  s.setDp { s.dp with f := s.baseF n, a := s.baseA n, r := s.baseR n, t := s.baseT n }

/-- The modulations before generation: the slots in ascending id, in each FM and then AM (R143). -/
def State.modulate (s : State) (ks : List (Fin 10)) : State :=
  ks.foldl (fun s k => (s.applyFm k).applyAm k) s

/-- `g <- fmul(a, GEN(t, PHASE[n], r))`, with the phase before the advance (R144); GEN returns in the working set. -/
def State.generate (s : State) (n : Fin 8) : State :=
  let y := genWave s.cfg s.dp.t s.render.phase[n] s.dp.r
  s.setDp { s.dp with y := y, g := fmul s.dp.a y }

/-- The combine operations after generation, in ascending slot id (R149). -/
def State.combine (s : State) (ks : List (Fin 10)) : State := ks.foldl (fun s k => s.applyMul k) s

/-- `OSC_EVAL(n)` (R149). -/
def State.oscEval (s : State) (n : Fin 8) : State :=
  let s := s.loadBase n
  let s := s.modulate (slotInputs n)
  let s := s.generate n
  let s := s.combine (slotInputs n)
  let s := s.phaseAdvance n s.dp.f
  s.setO n s.dp.g

/-! ## Meanings -/

/-- R134. -/
def execSquish (u : F) (s : State) : Result State := .next (s.returnY (squish u))

/-- R135: no change. -/
def execFmOff (_ : Fin 10) (s : State) : Result State := .next s

/-- R136. -/
def execFmFreq (k : Fin 10) (s : State) : Result State := .next (s.fmFreq k)

/-- R137. -/
def execFmShape (k : Fin 10) (s : State) : Result State := .next (s.scaleShape k)

/-- R138. -/
def execFmRes (k : Fin 10) (s : State) : Result State := .next (s.scaleRes k)

/-- R139: no change. -/
def execAmOff (_ : Fin 10) (s : State) : Result State := .next s

/-- R140. -/
def execAmAmp (k : Fin 10) (s : State) : Result State := .next (s.amAmp k)

/-- R141. -/
def execAmRes (k : Fin 10) (s : State) : Result State := .next (s.scaleRes k)

/-- R142. -/
def execAmShape (k : Fin 10) (s : State) : Result State := .next (s.scaleShape k)

/-- R145: no change. -/
def execMulOff (_ : Fin 10) (s : State) : Result State := .next s

/-- R146. -/
def execMulAdd (k : Fin 10) (s : State) : Result State := .next (s.mulAdd k)

/-- R147. -/
def execMulSub (k : Fin 10) (s : State) : Result State := .next (s.mulSub k)

/-- R148. -/
def execMulMul (k : Fin 10) (s : State) : Result State := .next (s.mulMul k)

/-- R149. -/
def execOscEval (n : Fin 8) (s : State) : Result State := .next (s.oscEval n)

/-- R150. -/
def execPhaseInc (f : F) (s : State) : Result State :=
  .next (s.setDp { s.dp with inc := phaseInc s.cfg.sampleRate f })

/-- R151. -/
def execPhaseAdvance (n : Fin 8) (f : F) (s : State) : Result State := .next (s.phaseAdvance n f)

end Sys2Proof.Machine
end

