-- ==== Sys2Proof/Machine/Filter.lean ====
section
/-! DEFINITION. The biquad filter cascade (42_filter.md). -/

namespace Sys2Proof.Machine

/-- The output of an active section (R162): five products summed left to right, each operation rounded. -/
def State.bqOutput (s : State) (j : Fin 3) (x : F) : F :=
  let h := s.render.bq[j]
  fsub (fsub (fadd (fadd (fmul (s.coeff j 0) x) (fmul (s.coeff j 1) h.x1)) (fmul (s.coeff j 2) h.x2))
    (fmul (s.coeff j 3) h.y1)) (fmul (s.coeff j 4) h.y2)

/-- The post-filter sample in the working set. -/
def State.returnV (s : State) (v : F) : State := s.setDp { s.dp with v := v }

/-- `BQ_ACTIVE(j, x)` (R162): the output, and both histories shifted. -/
def State.bqActive (s : State) (j : Fin 3) (x : F) : State :=
  let h := s.render.bq[j]
  let y := s.bqOutput j x
  (s.setBq j ⟨x, h.x1, y, h.y1⟩).returnV y

/-- `BQ_BYPASS(j, x)` (R163): the input, the history unchanged. -/
def State.bqBypass (s : State) (_ : Fin 3) (x : F) : State := s.returnV x

/-- One section of the cascade, on the sample in the working set (R164). -/
def State.bqSection (s : State) (j : Fin 3) : State :=
  if s.bypassed j then s.bqBypass j s.dp.v else s.bqActive j s.dp.v

/-- `BQ_CASCADE(x)` (R164): sections 1, 2, 3, each feeding the next. -/
def State.bqCascade (s : State) (x : F) : State :=
  (((s.returnV x).bqSection 0).bqSection 1).bqSection 2

/-! ## Meanings -/

/-- R162. -/
def execBqActive (j : Fin 3) (x : F) (s : State) : Result State := .next (s.bqActive j x)

/-- R163. -/
def execBqBypass (j : Fin 3) (x : F) (s : State) : Result State := .next (s.bqBypass j x)

/-- R164. -/
def execBqCascade (x : F) (s : State) : Result State := .next (s.bqCascade x)

end Sys2Proof.Machine
end

