-- ==== Sys2Proof/Machine/Post.lean ====
section
/-! DEFINITION. Crush, envelope, DC offset and quantizer (43_envelope_post.md). -/

namespace Sys2Proof.Machine

/-! ## Crush -/

/-- `CRUSH_OFF(v)` (R182). -/
def State.crushOff (s : State) (v : F) : State := s.returnV v

/-- `CRUSH_HOLD(v)` (R183): capture when the counter is 0, then hold. The operation is selected only when CL > 0;
where it is not selected nothing happens (log entry 11). -/
def State.crushHold (s : State) (v : F) : State :=
  if s.render.cl = 0 then s
  else
    let held := if s.render.cnt = 0 then v else s.render.val
    (s.setRender { s.render with val := held, cnt := (s.render.cnt + 1) % s.render.cl }).returnV held

/-! ## Envelope -/

/-- The interpolated value between breakpoints `lo` and `hi` (R178). -/
def interpolate (lo hi : F) (step sps : Nat) : F :=
  fadd lo (fmul (fsub hi lo) (fdiv (toF step) (toF sps)))

/-- The envelope value in the working set. -/
def State.returnE (s : State) (e : F) : State := s.setDp { s.dp with e := e }

/-- `ENV_INTERP` (R178). The operation is selected only when SEG < 465; where it is not selected nothing happens
(log entry 11), so no breakpoint past the last is read. -/
def State.envInterp (s : State) : State :=
  if h : s.render.seg < 465 then
    s.returnE (interpolate s.patch.env[s.render.seg] s.patch.env[s.render.seg + 1] s.render.step s.render.sps)
  else s

/-- `ENV_HOLD` (R179). -/
def State.envHold (s : State) : State := s.returnE s.patch.env[465]

/-- `ENV_ADVANCE` (R180): the segment advances every SPS samples and saturates at 465. -/
def State.envAdvance (s : State) : State :=
  if s.render.step + 1 = s.render.sps then
    s.setRender { s.render with
      step := 0
      seg := if s.render.seg < Config.lastSeg then s.render.seg + 1 else s.render.seg }
  else s.setRender { s.render with step := s.render.step + 1 }

/-! ## Scaling and quantizer -/

/-- The scaled sample `fsub(fmul(e, v), DCV)` (R185). -/
def postScale (e v dcv : F) : F := fsub (fmul e v) dcv

/-- `POST_SCALE(e, v)` (R185). -/
def State.postScaled (s : State) (e v : F) : State := s.setDp { s.dp with s := postScale e v s.render.dcv }

/-- The wrapping quantizer (R186). -/
def quantWrap (x : F) : Byte :=
  if isNaN x || isInf x then 0x00#8
  else
    let k := truncF x
    if k < -(2 ^ 31) ∨ 2 ^ 31 - 1 < k then 0x00#8 else BitVec.ofInt 8 k

/-- The saturating quantizer (R187). -/
def quantClamp (x : F) : Byte :=
  if isNaN x then 0x00#8
  else if isInf x then (if fSign x then 0x80#8 else 0x7F#8)
  else BitVec.ofInt 8 (clampInt (truncF x) (-128) 127)

/-- The quantized byte in the working set. -/
def State.returnQ (s : State) (q : Byte) : State := s.setDp { s.dp with q := q }

/-! ## Meanings -/

/-- R182. -/
def execCrushOff (v : F) (s : State) : Result State := .next (s.crushOff v)

/-- R183. -/
def execCrushHold (v : F) (s : State) : Result State := .next (s.crushHold v)

/-- R178. -/
def execEnvInterp (s : State) : Result State := .next s.envInterp

/-- R179. -/
def execEnvHold (s : State) : Result State := .next s.envHold

/-- R180. -/
def execEnvAdvance (s : State) : Result State := .next s.envAdvance

/-- R185. -/
def execPostScale (e v : F) (s : State) : Result State := .next (s.postScaled e v)

/-- R186. -/
def execQuantWrap (x : F) (s : State) : Result State := .next (s.returnQ (quantWrap x))

/-- R187. -/
def execQuantClamp (x : F) (s : State) : Result State := .next (s.returnQ (quantClamp x))

end Sys2Proof.Machine
end

