-- ==== Sys2Proof/Machine/Engine.lean ====
section
/-! DEFINITION. The render engine (44_render.md section 4): the render start, the sample step and the completion. -/

namespace Sys2Proof.Machine

/-- The render state at a render start (R226): everything reset, the constants latched. -/
def State.freshRender (s : State) : Render where
  phase := Vector.replicate 8 0#32
  bq := Vector.replicate 3 Biquad.zero
  seg := s.startSegment
  step := 0
  cnt := 0
  val := fZero
  total := s.totalSamples
  sps := samplesPerSegment s.totalSamples
  cl := s.crushLength
  dcv := s.dcValue

/-- `RENDER_START` (R226); a render of no samples is complete at once (R233). -/
def State.renderStart (s : State) : State :=
  { s with
    length := BitVec.ofNat 32 s.totalSamples
    progress := 0#32
    done := decide (s.totalSamples = 0)
    busy := if s.totalSamples = 0 then s.busy else true
    render := s.freshRender }

/-- The eight oscillators in `EVAL_ORDER` (R133). -/
def State.oscillators (s : State) : State := evalOrder.foldl (fun s n => s.oscEval n) s

/-- The crush of the post-filter sample (R175). -/
def State.crush (s : State) : State := if s.crushOn then s.crushHold s.dp.v else s.crushOff s.dp.v

/-- The envelope value (R175). -/
def State.envValue (s : State) : State := if s.envSat then s.envHold else s.envInterp

/-- The quantizer that QMODE selects (R188). -/
def State.quantize (s : State) : State :=
  s.returnQ (if s.qmode then quantClamp s.dp.s else quantWrap s.dp.s)

/-- The stages after the oscillators, in the order of R175, up to the quantized byte. -/
def State.postStages (s : State) : State :=
  let s := s.bqCascade s.dp.o[0]
  let s := s.crush
  let s := s.envValue
  let s := s.envAdvance
  let s := s.postScaled s.dp.e s.dp.v
  s.quantize

/-- The end of a sample step: the byte stored at index PROGRESS, PROGRESS incremented, and the render completed with
its last sample (R228, R229). -/
def State.storeSample (s : State) : State :=
  let s := (s.writeBuf s.progress.toNat s.dp.q).setProgress (s.progress + 1)
  if s.progress = s.length then s.complete else s

/-- `SAMPLE_STEP` (R228), enabled exactly when BUSY = 1: idle, nothing happens. The transient values do not outlive
the step (R41). -/
def State.sampleStep (s : State) : State :=
  if s.busy then s.oscillators.postStages.storeSample.setDp Datapath.rest else s

/-! ## Meanings -/

/-- R226. -/
def execRenderStart (s : State) : Result State := .next s.renderStart

/-- R228. -/
def execSampleStep (s : State) : Result State := .next s.sampleStep

/-- R229. -/
def execRenderComplete (s : State) : Result State := .next s.complete

end Sys2Proof.Machine
end

