-- ==== Sys2Proof/Machine/Bus.lean ====
section
/-! DEFINITION. The host operations (44_render.md sections 2 and 3): one atomic transition each (R68). -/

namespace Sys2Proof.Machine

/-- The value a 4-byte read of a register returns (R211). -/
def State.readReg (s : State) (r : RegName) : Word :=
  match r with
  | .id => Config.idWord
  | .ctrl => 0#32
  | .status => s.statusWord
  | .config => (BitVec.ofBool s.qmode).setWidth 32
  | .duration => s.duration
  | .length => s.length
  | .progress => s.progress
  | .irqEn => (BitVec.ofBool s.doneIe).setWidth 32
  | .dial i => s.patch.dial[i]
  | .slot k => s.patch.slot[k].setWidth 32
  | .sectionLength => s.patch.sectionLength.setWidth 32
  | .env k => s.patch.env[k]

/-! ## Reads -/

/-- R211. -/
def execRdReg (r : RegName) (s : State) : Result State := .next (s.respond (s.readReg r))

/-- R223, one byte. -/
def execRdBuf8 (i : BitVec 21) (s : State) : Result State := .next (s.respond (s.bufRead i.toNat 1))

/-- R223, two bytes. -/
def execRdBuf16 (i : BitVec 21) (s : State) : Result State := .next (s.respond (s.bufRead i.toNat 2))

/-- R223, four bytes. -/
def execRdBuf32 (i : BitVec 21) (s : State) : Result State := .next (s.respond (s.bufRead i.toNat 4))

/-! ## Control writes -/

/-- R222: no effect, no flag. -/
def execWrId (_ : Word) (s : State) : Result State := .next s

/-- R213: bit 0 starts a render unless one runs. -/
def execWrCtrl (v : Word) (s : State) : Result State :=
  .next (if v.getLsbD 0 then s.busyChecked State.renderStart else s)

/-- R214. -/
def execWrStatus (v : Word) (s : State) : Result State := .next (s.clearStatus v)

/-- R215. -/
def execWrConfig (v : Word) (s : State) : Result State :=
  .next (s.busyChecked fun s => s.setQmode (v.getLsbD 0))

/-- R216. -/
def execWrDuration (v : Word) (s : State) : Result State := .next (s.busyChecked fun s => s.setDuration v)

/-- R222. -/
def execWrLength (_ : Word) (s : State) : Result State := .next s

/-- R222. -/
def execWrProgress (_ : Word) (s : State) : Result State := .next s

/-- R221, not busy-checked. -/
def execWrIrqEn (v : Word) (s : State) : Result State := .next (s.setDoneIe (v.getLsbD 0))

/-! ## Patch writes -/

/-- R219. -/
def execWrSectionLength (v : Word) (s : State) : Result State :=
  .next (s.busyChecked fun s => s.setSectionLength (wrapSection v))

/-- R217. -/
def execWrDial (i : Fin 50) (v : Word) (s : State) : Result State :=
  .next (s.busyChecked fun s => s.setDial i (clampWrite (dialLow s.cfg.dialPolarity[i]) v))

/-- R218: bits 5:0 are stored, bits 31:6 are ignored. -/
def execWrSlot (k : Fin 10) (v : Word) (s : State) : Result State :=
  .next (s.busyChecked fun s => s.setSlot k (v.extractLsb' 0 6))

/-- R220. -/
def execWrEnv (k : Fin 466) (v : Word) (s : State) : Result State :=
  .next (s.busyChecked fun s => s.setEnv k (clampWrite fZero v))

/-! ## Illegal accesses -/

/-- R224: sets ERR_ADDR and changes nothing else. -/
def execWrBuf (_ : Width) (_ : BitVec 21) (_ : Word) (s : State) : Result State := .next s.setErrAddr

/-- R225: sets ERR_ADDR; a read returns 0. -/
def execBadAccess (we : Bool) (_ : BitVec 2) (_ : BitVec 22) (_ : Word) (s : State) : Result State :=
  .next (if we then s.setErrAddr else s.setErrAddr.respond 0#32)

end Sys2Proof.Machine
end

