-- ==== Sys2Proof/Machine/Dispatch.lean ====
section
/-! DEFINITION. One arm per operation: each is one call of its meaning. -/

namespace Sys2Proof.Machine

def exec (i : Instr) (s : State) : Host.Outcome State Fault Refusal :=
  match i with
  | .rdReg r => Sys2Proof.Machine.execRdReg r s
  | .rdBuf8 ix => Sys2Proof.Machine.execRdBuf8 ix s
  | .rdBuf16 ix => Sys2Proof.Machine.execRdBuf16 ix s
  | .rdBuf32 ix => Sys2Proof.Machine.execRdBuf32 ix s
  | .wrId v => Sys2Proof.Machine.execWrId v s
  | .wrCtrl v => Sys2Proof.Machine.execWrCtrl v s
  | .wrStatus v => Sys2Proof.Machine.execWrStatus v s
  | .wrConfig v => Sys2Proof.Machine.execWrConfig v s
  | .wrDuration v => Sys2Proof.Machine.execWrDuration v s
  | .wrLength v => Sys2Proof.Machine.execWrLength v s
  | .wrProgress v => Sys2Proof.Machine.execWrProgress v s
  | .wrIrqEn v => Sys2Proof.Machine.execWrIrqEn v s
  | .wrSectionLength v => Sys2Proof.Machine.execWrSectionLength v s
  | .wrDial ix v => Sys2Proof.Machine.execWrDial ix v s
  | .wrSlot k v => Sys2Proof.Machine.execWrSlot k v s
  | .wrEnv k v => Sys2Proof.Machine.execWrEnv k v s
  | .wrBuf w ix v => Sys2Proof.Machine.execWrBuf w ix v s
  | .badAccess we size addr v => Sys2Proof.Machine.execBadAccess we size addr v s
  | .renderStart => Sys2Proof.Machine.execRenderStart s
  | .sampleStep => Sys2Proof.Machine.execSampleStep s
  | .renderComplete => Sys2Proof.Machine.execRenderComplete s
  | .sineLookup idx => Sys2Proof.Machine.execSineLookup idx s
  | .harmonicCount r => Sys2Proof.Machine.execHarmonicCount r s
  | .bandSelect t => Sys2Proof.Machine.execBandSelect t s
  | .gen t p r => Sys2Proof.Machine.execGen t p r s
  | .shapeSine p => Sys2Proof.Machine.execShapeSine p s
  | .shapeSlant p n => Sys2Proof.Machine.execShapeSlant p n s
  | .shapeSquare p n => Sys2Proof.Machine.execShapeSquare p n s
  | .shapeSaw p n => Sys2Proof.Machine.execShapeSaw p n s
  | .shapeTri p n => Sys2Proof.Machine.execShapeTri p n s
  | .shapeImpulse p r => Sys2Proof.Machine.execShapeImpulse p r s
  | .squish u => Sys2Proof.Machine.execSquish u s
  | .fmOff k => Sys2Proof.Machine.execFmOff k s
  | .fmFreq k => Sys2Proof.Machine.execFmFreq k s
  | .fmShape k => Sys2Proof.Machine.execFmShape k s
  | .fmRes k => Sys2Proof.Machine.execFmRes k s
  | .amOff k => Sys2Proof.Machine.execAmOff k s
  | .amAmp k => Sys2Proof.Machine.execAmAmp k s
  | .amRes k => Sys2Proof.Machine.execAmRes k s
  | .amShape k => Sys2Proof.Machine.execAmShape k s
  | .mulOff k => Sys2Proof.Machine.execMulOff k s
  | .mulAdd k => Sys2Proof.Machine.execMulAdd k s
  | .mulSub k => Sys2Proof.Machine.execMulSub k s
  | .mulMul k => Sys2Proof.Machine.execMulMul k s
  | .oscEval n => Sys2Proof.Machine.execOscEval n s
  | .phaseInc f => Sys2Proof.Machine.execPhaseInc f s
  | .phaseAdvance n f => Sys2Proof.Machine.execPhaseAdvance n f s
  | .bqActive j x => Sys2Proof.Machine.execBqActive j x s
  | .bqBypass j x => Sys2Proof.Machine.execBqBypass j x s
  | .bqCascade x => Sys2Proof.Machine.execBqCascade x s
  | .crushOff v => Sys2Proof.Machine.execCrushOff v s
  | .crushHold v => Sys2Proof.Machine.execCrushHold v s
  | .envInterp => Sys2Proof.Machine.execEnvInterp s
  | .envHold => Sys2Proof.Machine.execEnvHold s
  | .envAdvance => Sys2Proof.Machine.execEnvAdvance s
  | .postScale e v => Sys2Proof.Machine.execPostScale e v s
  | .quantWrap k => Sys2Proof.Machine.execQuantWrap k s
  | .quantClamp k => Sys2Proof.Machine.execQuantClamp k s

end Sys2Proof.Machine
end

