-- ==== Sys2Proof/Machine/Fetch.lean ====
section
/-! DEFINITION. What happens next to the block: the schedule of R6 and R70 as data. -/

namespace Sys2Proof.Machine

/-- The operation an event performs: a transaction is decoded (R93), a turn of the engine is a sample step (R228), and
the reset input performs no operation. -/
def eventInstr : Event → Option Instr
  | .host T data => some (decodeBus T data)
  | .engine => some .sampleStep
  | .reset => none

/-- One event: its operation, or the reset transition (R262). -/
def runEvent (e : Event) (s : State) : Result State :=
  match eventInstr e with
  | some i => exec i s
  | none => .next s.hardwareReset

/-- One transition: the oldest pending event, or, when none is pending, a turn of the engine, which an idle block lets
pass (R252, R271; log entry 6). -/
def nextTransition (s : State) : Result State :=
  match s.agenda with
  | [] => exec .sampleStep s
  | e :: rest => runEvent e (s.setAgenda rest)

/-! ## Placing an operation -/

/-- The block made to render one sample next, whatever it did before: busy, with one sample to go, and the engine's
turn at the head of the schedule (log entry 13). -/
def State.engineNext (s : State) : State :=
  { s with busy := true, done := false, progress := 0#32, length := 1#32, agenda := .engine :: s.agenda }

/-- A value of the shape parameter in each band (R108): the band's lower threshold, +0.0 for the sine. -/
def bandValue : Band → F
  | .sine => fZero
  | .slant => 0x3E2AAAAB#32
  | .square => 0x3EAAAAAB#32
  | .saw => 0x3F000000#32
  | .tri => 0x3F2AAAAB#32
  | .impulse => 0x3F555555#32

/-- The shape of O1 put in a band: dial 3 holds the band's value and is scaled by 1.0. -/
def State.placeBand (s : State) (b : Band) : State :=
  ({ s with cfg := { s.cfg with dialScale := s.cfg.dialScale.set 3 fOne } }).setDial 3 (bandValue b)

/-- The operation of a table word placed where the next transition performs it (log entry 13): a transaction at the head
of the schedule; a selector in the patch, where the sample step reads it, with the engine's turn next. -/
def placeWord (s : State) (nbits w : Nat) : State :=
  if 8 < nbits then
    s.setAgenda (.host (BitVec.ofNat 25 w) (BitVec.ofNat 32 (w / 2 ^ 32)) :: s.agenda)
  else
    match selectorCode (BitVec.ofNat 8 w) with
    | some (.band b _ _ _) => (s.placeBand ((bandOfCode b).getD .sine)).engineNext
    | _ => (s.setSlot 0 (BitVec.ofNat 6 w)).engineNext

end Sys2Proof.Machine
end

