-- ==== Sys2Proof/Machine/Step.lean ====
section
/-! DEFINITION. One transition of the block, and where a table word is placed for it. -/

namespace Sys2Proof.Machine

/-- One transition (R5, R70). -/
def step (s : State) : Host.Outcome State Fault Refusal := nextTransition s

/-- The state with an operation's word placed where `step` takes its next operation from. -/
def State.withFetchWord (s : State) (nbits w : Nat) : State := placeWord s nbits w

end Sys2Proof.Machine
end

