-- ==== Sys2Proof/Safety.lean ====
section
/-! DEFINITION. The terms in which claims about the block are stated: the value of a binary32 pattern and correct rounding,
the invariants of 10_state.md, sequences of operations, the state a render reads, and the pseudocode loops of the
harmonic series. -/

namespace Sys2Proof.Machine

/-! ## Values of binary32 patterns (R12, R13) -/

/-- The rational value of a finite pattern. -/
def fValue (x : F) : ℚ := (fUnits x : ℚ) / 2 ^ 149

/-- The least magnitude that rounds to infinity: half a unit above the largest finite value. -/
def overflowBound : ℚ := (2 ^ 25 - 1) * 2 ^ 103

/-- `x` is the binary32 value nearest to the real `v`, ties to even (R13): infinite with the sign of `v` when `v` overflows,
else finite, at least as near as every other finite value, and with an even fraction if another is as near. -/
def NearestEven (v : ℝ) (x : F) : Prop :=
  if ((overflowBound : ℚ) : ℝ) ≤ |v| then isInf x = true ∧ (fSign x = true ↔ v < 0)
  else
    isFinite x = true ∧
      ∀ y : F, isFinite y = true →
        |v - ((fValue x : ℚ) : ℝ)| ≤ |v - ((fValue y : ℚ) : ℝ)| ∧
          (|v - ((fValue x : ℚ) : ℝ)| = |v - ((fValue y : ℚ) : ℝ)| → fValue y ≠ fValue x → x.getLsbD 0 = false)

/-- The integer `k` is the rational `v` rounded to nearest, ties to even. -/
def NearestEvenInt (v : ℚ) (k : ℤ) : Prop := |v - k| ≤ 1 / 2 ∧ (|v - k| = 1 / 2 → Even k)

/-- The rational truncated toward zero. -/
def truncQ (v : ℚ) : ℤ := if v < 0 then -⌊-v⌋ else ⌊v⌋

/-! ## Invariants (10_state.md) -/

/-- A value of the range `lo` .. 1.0, never NaN (R22, R24). -/
def inRange (lo x : F) : Bool := fle lo x && fle x fOne

/-- The values of a harmonic count function given as steps are in 1 .. `hmax` (R107). -/
def harmonicStepsOk (hmax : Nat) (t : HarmonicSteps) : Prop :=
  t.rises.length + 1 ≤ hmax ∧ (1 ≤ t.atNaN ∧ t.atNaN ≤ hmax) ∧ (1 ≤ t.atPosInf ∧ t.atPosInf ≤ hmax) ∧
    1 ≤ t.atNegInf ∧ t.atNegInf ≤ hmax

/-- `HMAX` is positive (R8), and `HARMONIC_COUNT` is the default or has its values in 1 .. `HMAX` (R107); as steps it never
decreases over the finite values. -/
def harmonicsOk (p : Params) : Prop :=
  1 ≤ p.hmax ∧ ∀ t : HarmonicSteps, p.harmonics = .steps t → harmonicStepsOk p.hmax t

/-- The constraints of R9, R8 and R107 on the configuration. -/
def paramsOk (p : Params) : Prop :=
  (1 ≤ p.sampleRate ∧ p.sampleRate < 2 ^ 24) ∧ (1 ≤ p.maxClip ∧ p.maxClip ≤ 2 ^ 21) ∧
    (∀ i : Fin 50, isFinite p.dialScale[i] = true) ∧ (∀ k : Fin 10, 1 ≤ p.impH[k]) ∧
      (∀ k : Fin 9, fge p.impW[k.castSucc] p.impW[k.succ] = true) ∧ harmonicsOk p

/-- The patch is valid (R22, R24, R25). -/
def State.patchOk (s : State) : Prop :=
  (∀ i : Fin 50, inRange (dialLow s.cfg.dialPolarity[i]) s.patch.dial[i] = true) ∧
    (∀ k : Fin 466, inRange fZero s.patch.env[k] = true) ∧
      1 ≤ s.patch.sectionLength.toNat ∧ s.patch.sectionLength.toNat ≤ 33

/-- The counters of the render state are in their ranges (R38, R39, R40, R176, R181). -/
def State.countersOk (s : State) : Prop :=
  s.render.seg ≤ 465 ∧ s.render.sps ≤ 2 ^ 21 ∧ (s.render.step < s.render.sps ∨ s.render.step = 0 ∧ s.render.sps = 0) ∧
    s.render.cl ≤ 33 ∧ (s.render.cnt < s.render.cl ∨ s.render.cnt = 0 ∧ s.render.cl = 0)

/-- LENGTH and PROGRESS (R32, R33, R40) and the mode (R45, R228, R233): a running render has a sample to go, a segment length
and DONE clear. -/
def State.progressOk (s : State) : Prop :=
  s.length.toNat ≤ s.cfg.maxClip ∧ s.length.toNat = s.render.total ∧ s.progress.toNat ≤ s.length.toNat ∧
    (s.busy = true → s.progress.toNat < s.length.toNat ∧ 1 ≤ s.render.sps ∧ s.done = false)

/-- The invariant of the block between transitions. -/
def State.Inv (s : State) : Prop :=
  paramsOk s.cfg ∧ s.patchOk ∧ s.countersOk ∧ s.progressOk ∧ Memory.wf s.buf ∧ s.dp = Datapath.rest

/-! ## Sequences of operations -/

/-- One operation after another; a stop ends the sequence. -/
def andThen (o : Result State) (k : State → Result State) : Result State :=
  match o with
  | .next s => k s
  | .fault r => .fault r
  | .refused r => .refused r

/-- A list of operations in order. -/
def execAll : List Instr → State → Result State
  | [], s => .next s
  | i :: is, s => andThen (exec i s) (execAll is)

/-! ## Renders -/

/-- What a sample step reads or writes: everything but the flags DONE, ERR_BUSY and ERR_ADDR, IRQ_EN, the data returned to the
host and the schedule (R230). -/
def State.sameRender (s t : State) : Prop :=
  s.cfg = t.cfg ∧ s.patch = t.patch ∧ s.busy = t.busy ∧ s.qmode = t.qmode ∧ s.duration = t.duration ∧
    s.length = t.length ∧ s.progress = t.progress ∧ s.render = t.render ∧ s.buf = t.buf ∧ s.dp = t.dp

/-- The number of the engine's turns in a schedule. -/
def engineTurns (l : List Event) : Nat := l.countP fun e => decide (e = .engine)

/-- `n` sample steps. -/
def sampleSteps : Nat → State → State
  | 0, s => s
  | n + 1, s => sampleSteps n s.sampleStep

/-- `ENV_ADVANCE` `n` times (R180). -/
def envAdvances : Nat → State → State
  | 0, s => s
  | n + 1, s => envAdvances n s.envAdvance

/-- The post-crush values of a list of post-filter values (R183), sample by sample. -/
def crushes : List F → State → List F
  | [], _ => []
  | x :: xs, s => (s.crushHold x).dp.v :: crushes xs (s.crushHold x)

/-! ## The loops of 40_waveform.md as the pseudocode writes them -/

/-- `for h = h0, h0 + stride, ... while h <= n: acc <- body h acc`, with fuel. -/
def harmonicLoop (body : Nat → F → F) (stride n : Nat) : Nat → Nat → F → F
  | 0, _, acc => acc
  | fuel + 1, h, acc =>
    if h ≤ n then harmonicLoop body stride n fuel (h + stride) (body h acc) else acc

/-- A register address of R61, by the ranges of R93. -/
def registerAddress (a : Nat) : Bool :=
  decide (a % 4 = 0) &&
    (decide (a ≤ 0x1C) || (decide (0x100 ≤ a) && decide (a ≤ 0x1C4)) || (decide (0x200 ≤ a) && decide (a ≤ 0x224)) ||
      decide (a = 0x240) || (decide (0x800 ≤ a) && decide (a ≤ 0xF44)))

end Sys2Proof.Machine
end

