-- ==== Sys2Proof/Certificates/Slice0/Obligations.lean ====
section
/-! DEFINITION. The statements for the provers. Each docstring names the rule of spec/ it formalises, or says that it rests on
the model's own choice and names the log entry. -/

open Sys2Proof Sys2Proof.Machine

/-! ## Encoding -/

/-- Decoding the encoding of a well-formed operation gives it back, for every operation that has an encoding (R80, R86 to R90,
R93). -/
def Obligations.DecodeInvertsEncode : Prop :=
  ∀ (i : Instr) (c : Code), wellFormed i = true → encode i = some c → decode c = .ok i

/-- R93: the decoder of transactions is total and drops no bit: what it selects is well-formed and encodes back to the descriptor
and, for a write, the data word. -/
def Obligations.EncodeInvertsBusDecode : Prop :=
  ∀ (T : Desc) (d : Word),
    wellFormed (decodeBus T d) = true ∧
      encode (decodeBus T d) = some (.bus T (if T.getLsbD 24 then d else 0#32))

/-- Words written out from the spec's encodings (95_test_vectors 2.9, R83, R86 to R89) decode to the operations they stand for: seven
descriptors, one slot word through each of its three fields, and band code 4; band codes 6 and 7 decode to none. -/
def Obligations.WrittenOutWordsDecode : Prop :=
  (∀ d : Word, decodeBus 0x1800004#25 d = .wrCtrl d ∧ decodeBus 0x0800008#25 d = .rdReg .status ∧
    decodeBus 0x08001C4#25 d = .rdReg (.dial 49) ∧ decodeBus 0x0800F44#25 d = .rdReg (.env 465) ∧
    decodeBus 0x0600002#25 d = .rdBuf16 2#21 ∧ decodeBus 0x1A00000#25 d = .wrBuf .w4 0#21 d ∧
    decodeBus 0x0000008#25 d = .badAccess false 0#2 8#22 0#32) ∧
  (∀ (p : Word) (n : Nat) (r : F), decode (.band 0b100#3 p n r) = .ok (.shapeTri p n) ∧
    decode (.band 0b110#3 p n r) = .error .reservedBand ∧ decode (.band 0b111#3 p n r) = .error .reservedBand) ∧
  ∀ s : Fin 10, decode (.fm s 0b010110#6) = .ok (.fmShape s) ∧ decode (.am s 0b010110#6) = .ok (.amAmp s) ∧
    decode (.mul s 0b010110#6) = .ok (.mulAdd s)

/-! ## Transitions -/

/-- A transition performs the oldest pending event: a transaction is decoded and its operation performed on the state with the
event removed; a turn of the engine is SAMPLE_STEP; with nothing pending the engine has the turn, which an idle block lets
pass. The schedule is the model's form of R6 and R70 (log entry 6). -/
def Obligations.StepRunsTheDecodedOperation : Prop :=
  (∀ (s : State) (T : Desc) (d : Word) (rest : List Event), s.agenda = .host T d :: rest →
    step s = exec (decodeBus T d) { s with agenda := rest }) ∧
  (∀ (s : State) (rest : List Event), s.agenda = .engine :: rest →
    step s = exec .sampleStep { s with agenda := rest }) ∧
  (∀ s : State, s.agenda = [] → step s = exec .sampleStep s) ∧
  ∀ s : State, s.busy = false → exec .sampleStep s = .next s

/-- R240: no operation stops the block, and no transition does. -/
def Obligations.NoOperationStops : Prop :=
  (∀ (i : Instr) (s : State), ∃ t, exec i s = .next t) ∧ ∀ s : State, ∃ t, step s = .next t

/-! ## Host reads -/

/-- R211: what a read of each register returns; nothing else changes. -/
def Obligations.RegisterReadsReturnTheirFields : Prop :=
  ∀ s : State,
    exec (.rdReg .id) s = .next { s with rdata := 0x42455233#32 } ∧
    exec (.rdReg .ctrl) s = .next { s with rdata := 0#32 } ∧
    (∃ w : Word, exec (.rdReg .status) s = .next { s with rdata := w } ∧
      w.toNat = s.busy.toNat + 2 * s.done.toNat + 4 * s.errBusy.toNat + 8 * s.errAddr.toNat) ∧
    (∃ w : Word, exec (.rdReg .config) s = .next { s with rdata := w } ∧ w.toNat = s.qmode.toNat) ∧
    exec (.rdReg .duration) s = .next { s with rdata := s.duration } ∧
    exec (.rdReg .length) s = .next { s with rdata := s.length } ∧
    exec (.rdReg .progress) s = .next { s with rdata := s.progress } ∧
    (∃ w : Word, exec (.rdReg .irqEn) s = .next { s with rdata := w } ∧ w.toNat = s.doneIe.toNat) ∧
    (∀ i : Fin 50, exec (.rdReg (.dial i)) s = .next { s with rdata := s.patch.dial[i] }) ∧
    (∀ k : Fin 10, ∃ w : Word, exec (.rdReg (.slot k)) s = .next { s with rdata := w } ∧
      w.toNat = (slotFm s.patch.slot[k]).toNat + 4 * (slotAm s.patch.slot[k]).toNat +
        16 * (slotMul s.patch.slot[k]).toNat) ∧
    (∃ w : Word, exec (.rdReg .sectionLength) s = .next { s with rdata := w } ∧
      w.toNat = s.patch.sectionLength.toNat) ∧
    ∀ k : Fin 466, exec (.rdReg (.env k)) s = .next { s with rdata := s.patch.env[k] }

/-- R223, R69: a buffer read of n bytes returns BUF[i+k] in byte lane k < n, and 0 in a lane while rendering, at or past LENGTH, or
past the access; nothing else changes. -/
def Obligations.BufferReadsReturnLanes : Prop :=
  ∀ (s : State) (i : BitVec 21) (n : Nat) (op : Instr),
    (n, op) ∈ [(1, Instr.rdBuf8 i), (2, .rdBuf16 i), (4, .rdBuf32 i)] →
    ∃ w : Word, exec op s = .next { s with rdata := w } ∧
      ∀ k < 4, w.extractLsb' (8 * k) 8 =
        if k < n ∧ s.busy = false ∧ i.toNat + k < s.length.toNat then s.bufByte (i.toNat + k) else 0#8

/-- R66: a read changes nothing but the returned data and, when illegal, ERR_ADDR; repeated, it returns the same and changes
nothing. -/
def Obligations.ReadsHaveNoSideEffects : Prop :=
  ∀ (T : Desc) (d : Word) (s : State), T.getLsbD 24 = false →
    ∃ w : Word, ∃ t : State,
      t = { s with rdata := w, errAddr := s.errAddr || isIllegal (descSize T) (descAddr T) } ∧
      exec (decodeBus T d) s = .next t ∧ exec (decodeBus T d) t = .next t

/-! ## Host writes -/

/-- R213: bit 0 clear does nothing; bit 0 set starts a render when idle and sets ERR_BUSY alone when busy. -/
def Obligations.ControlWriteStartsWhenIdle : Prop :=
  ∀ (s : State) (v : Word), decodeBus 0x1800004#25 v = .wrCtrl v ∧
    (v.getLsbD 0 = false → exec (.wrCtrl v) s = .next s) ∧
    (v.getLsbD 0 = true → s.busy = true → exec (.wrCtrl v) s = .next { s with errBusy := true }) ∧
    (v.getLsbD 0 = true → s.busy = false →
      exec (.wrCtrl v) s = exec .renderStart s ∧ ∃ t, exec (.wrCtrl v) s = .next t)

/-- R214: write one to clear, in either mode. -/
def Obligations.StatusWriteClearsOnes : Prop :=
  ∀ (s : State) (v : Word), decodeBus 0x1800008#25 v = .wrStatus v ∧
    exec (.wrStatus v) s = .next { s with
      done := if v.getLsbD 1 then false else s.done
      errBusy := if v.getLsbD 2 then false else s.errBusy
      errAddr := if v.getLsbD 3 then false else s.errAddr }

/-- R215, R216, R221, R222: the writes of CONFIG and DURATION are busy-checked, that of IRQ_EN is not, and those of ID, LENGTH and
PROGRESS have no effect and set no flag. -/
def Obligations.ControlRegisterWrites : Prop :=
  ∀ (s : State) (v : Word),
    (decodeBus 0x180000C#25 v = .wrConfig v ∧
      exec (.wrConfig v) s =
        .next (if s.busy then { s with errBusy := true } else { s with qmode := v.getLsbD 0 })) ∧
    (decodeBus 0x1800010#25 v = .wrDuration v ∧
      exec (.wrDuration v) s = .next (if s.busy then { s with errBusy := true } else { s with duration := v })) ∧
    (decodeBus 0x180001C#25 v = .wrIrqEn v ∧ exec (.wrIrqEn v) s = .next { s with doneIe := v.getLsbD 0 }) ∧
    (decodeBus 0x1800000#25 v = .wrId v ∧ exec (.wrId v) s = .next s) ∧
    (decodeBus 0x1800014#25 v = .wrLength v ∧ exec (.wrLength v) s = .next s) ∧
    decodeBus 0x1800018#25 v = .wrProgress v ∧ exec (.wrProgress v) s = .next s

/-- R219: the stored section length is the written signed value wrapped into 1 .. 33. -/
def Obligations.SectionLengthWraps : Prop :=
  ∀ (s : State) (v : Word), decodeBus 0x1800240#25 v = .wrSectionLength v ∧
    (s.busy = true → exec (.wrSectionLength v) s = .next { s with errBusy := true }) ∧
    (s.busy = false → ∃ x : BitVec 6,
      exec (.wrSectionLength v) s = .next { s with patch := { s.patch with sectionLength := x } } ∧
      1 ≤ x.toNat ∧ x.toNat ≤ 33 ∧ (33 : ℤ) ∣ (x.toNat : ℤ) - v.toInt)

/-- R217: NaN stores +0.0, a value outside the dial's range the bound it passes, any other value itself; the stored value is in the
dial's range (R22). -/
def Obligations.DialWriteClamps : Prop :=
  ∀ (s : State) (i : Fin 50) (v lo : Word), lo = (if s.cfg.dialPolarity[i] = .bi then 0xBF800000#32 else 0#32) →
    decodeBus (BitVec.ofNat 25 (0x1800100 + 4 * i.val)) v = .wrDial i v ∧
    (s.busy = true → exec (.wrDial i v) s = .next { s with errBusy := true }) ∧
    (s.busy = false → ∃ x : F,
      exec (.wrDial i v) s = .next { s with patch := { s.patch with dial := s.patch.dial.set i x } } ∧
      inRange lo x = true ∧ (isNaN v = true → x = 0#32) ∧ (flt v lo = true → x = lo) ∧
      (fgt v 0x3F800000#32 = true → x = 0x3F800000#32) ∧ (inRange lo v = true → x = v))

/-- R220: the same for a breakpoint, with the range 0.0 .. 1.0 (R24). -/
def Obligations.EnvelopeWriteClamps : Prop :=
  ∀ (s : State) (k : Fin 466) (v : Word),
    decodeBus (BitVec.ofNat 25 (0x1800800 + 4 * k.val)) v = .wrEnv k v ∧
    (s.busy = true → exec (.wrEnv k v) s = .next { s with errBusy := true }) ∧
    (s.busy = false → ∃ x : F,
      exec (.wrEnv k v) s = .next { s with patch := { s.patch with env := s.patch.env.set k x } } ∧
      inRange 0#32 x = true ∧ (isNaN v = true → x = 0#32) ∧ (flt v 0#32 = true → x = 0#32) ∧
      (fgt v 0x3F800000#32 = true → x = 0x3F800000#32) ∧ (inRange 0#32 v = true → x = v))

/-- R218: the three selector fields of a slot take bits 1:0, 3:2 and 5:4 of the data word. -/
def Obligations.SlotWriteStoresSelectors : Prop :=
  ∀ (s : State) (k : Fin 10) (v : Word),
    decodeBus (BitVec.ofNat 25 (0x1800200 + 4 * k.val)) v = .wrSlot k v ∧
    (s.busy = true → exec (.wrSlot k v) s = .next { s with errBusy := true }) ∧
    (s.busy = false → ∃ w : BitVec 6,
      exec (.wrSlot k v) s = .next { s with patch := { s.patch with slot := s.patch.slot.set k w } } ∧
      slotFm w = v.extractLsb' 0 2 ∧ slotAm w = v.extractLsb' 2 2 ∧ slotMul w = v.extractLsb' 4 2)

/-- R212: while a render runs every busy-checked write is ignored and sets ERR_BUSY, and the others never set it. -/
def Obligations.BusyChecksIgnoreWrites : Prop :=
  ∀ (s : State) (v : Word) (op : Instr), s.busy = true →
    ((op ∈ [Instr.wrConfig v, .wrDuration v, .wrSectionLength v] ∨ (∃ i, op = .wrDial i v) ∨
        (∃ k, op = .wrSlot k v) ∨ (∃ k, op = .wrEnv k v) ∨ (op = .wrCtrl v ∧ v.getLsbD 0 = true)) →
      exec op s = .next { s with errBusy := true }) ∧
    ((op ∈ [Instr.wrStatus v, .wrIrqEn v, .wrId v, .wrLength v, .wrProgress v] ∨
        (op = .wrCtrl v ∧ v.getLsbD 0 = false)) →
      ∃ t, exec op s = .next t ∧ t.busy = true ∧ (t.errBusy = true → s.errBusy = true))

/-- R224, R225: a write to the buffer region and an illegal access set ERR_ADDR; an illegal read returns 0; nothing else changes. -/
def Obligations.IllegalAccessesSetErrAddr : Prop :=
  ∀ (s : State) (w : Width) (i : BitVec 21) (size : BitVec 2) (addr : BitVec 22) (v : Word),
    exec (.wrBuf w i v) s = .next { s with errAddr := true } ∧
    exec (.badAccess true size addr v) s = .next { s with errAddr := true } ∧
    exec (.badAccess false size addr v) s = .next { s with errAddr := true, rdata := 0#32 }

/-- R242: exactly the listed transactions set ERR_ADDR, they change nothing else (an illegal read returns 0, R65), and the flag stays
until bit 3 of STATUS is written 1 or the block is reset; a sample step leaves it. -/
def Obligations.ErrAddrHasExactlyItsCauses : Prop :=
  (∀ s t : State, (exec .sampleStep s = .next t → t.errAddr = s.errAddr) ∧
    ∀ rest, s.agenda = .reset :: rest → step s = .next t → t.errAddr = false) ∧
  ∀ (T : Desc) (d : Word) (s : State), ∃ t : State, exec (decodeBus T d) s = .next t ∧
    let size := (T.extractLsb' 22 2).toNat
    let addr := (T.extractLsb' 0 22).toNat
    let cause := size = 3 ∨ addr % 2 ^ size ≠ 0 ∨ (addr < 0x200000 ∧ size ≠ 2) ∨
      (addr < 0x200000 ∧ registerAddress addr = false) ∨ (0x200000 ≤ addr ∧ T.getLsbD 24 = true)
    (cause → t = { s with errAddr := true, rdata := if T.getLsbD 24 then s.rdata else 0#32 }) ∧
    (¬cause → (t.errAddr = true ↔ s.errAddr = true ∧ ¬(T = 0x1800008#25 ∧ d.getLsbD 3 = true)))

/-- R243, and of R246 that one access never sets both error flags: exactly the listed writes, while busy, set ERR_BUSY and are otherwise
ignored; the flag stays until bit 2 of STATUS is written 1 or the block is reset; a sample step leaves it. -/
def Obligations.ErrBusyHasExactlyItsCauses : Prop :=
  (∀ s t : State, (exec .sampleStep s = .next t → t.errBusy = s.errBusy) ∧
    ∀ rest, s.agenda = .reset :: rest → step s = .next t → t.errBusy = false) ∧
  ∀ (T : Desc) (d : Word) (s : State), ∃ t : State, exec (decodeBus T d) s = .next t ∧
    let addr := (T.extractLsb' 0 22).toNat
    let cause := s.busy = true ∧ T.extractLsb' 22 3 = 0b110#3 ∧ addr % 4 = 0 ∧
      (addr = 0x0C ∨ addr = 0x10 ∨ (0x100 ≤ addr ∧ addr ≤ 0x1C4) ∨ (0x200 ≤ addr ∧ addr ≤ 0x224) ∨ addr = 0x240 ∨
        (0x800 ≤ addr ∧ addr ≤ 0xF44) ∨ (addr = 0x04 ∧ d.getLsbD 0 = true))
    (cause → t = { s with errBusy := true }) ∧
    (¬cause → (t.errBusy = true ↔ s.errBusy = true ∧ ¬(T = 0x1800008#25 ∧ d.getLsbD 2 = true))) ∧
    ¬(s.errAddr = false ∧ t.errAddr = true ∧ s.errBusy = false ∧ t.errBusy = true)

/-! ## The render engine -/

/-- R226, with R227, R176, R177, R181 and R184 for the latched values: everything a render start writes, under the
configuration constraints of R9. -/
def Obligations.RenderStartResetsAndLatches : Prop :=
  ∀ s : State, paramsOk s.cfg → ∃ t : State, exec .renderStart s = .next t ∧
    t = { s with length := t.length, progress := 0#32, done := t.done, busy := t.busy, render := t.render } ∧
    t.length.toNat = min (s.cfg.sampleRate * s.duration.toNat) s.cfg.maxClip ∧
    t.render.total = t.length.toNat ∧
    (∀ n : Fin 8, t.render.phase[n] = 0#32) ∧ (∀ j : Fin 3, t.render.bq[j] = ⟨0#32, 0#32, 0#32, 0#32⟩) ∧
    t.render.cnt = 0 ∧ t.render.val = 0#32 ∧ t.render.step = 0 ∧
    (t.render.seg : ℤ) = min (max ⌊fValue (fmul s.patch.dial[47] 0x43E90000#32)⌋ 0) 465 ∧
    t.render.sps = max 1 (t.length.toNat / 466) ∧
    (t.render.cl : ℤ) = min (max ⌊fValue (fmul s.patch.dial[49] 0x42040000#32)⌋ 0) 33 ∧
    t.render.dcv = fmul s.patch.dial[48] s.cfg.dialScale[48] ∧
    (t.length.toNat = 0 → t.done = true ∧ t.busy = s.busy) ∧
    (t.length.toNat ≠ 0 → t.done = false ∧ t.busy = true)

/-- R233: a start with DURATION 0 completes at once: LENGTH 0, DONE set, still idle, and every buffer read returns 0. -/
def Obligations.ZeroLengthRenderCompletesAtOnce : Prop :=
  ∀ (s : State) (v : Word) (i : BitVec 21), s.busy = false → s.duration = 0#32 → v.getLsbD 0 = true →
    ∃ t, exec (.wrCtrl v) s = .next t ∧ t.length = 0#32 ∧ t.progress = 0#32 ∧ t.done = true ∧ t.busy = false ∧
      exec (.rdBuf8 i) t = .next { t with rdata := 0#32 } ∧ exec (.rdBuf16 i) t = .next { t with rdata := 0#32 } ∧
      exec (.rdBuf32 i) t = .next { t with rdata := 0#32 } ∧ exec .sampleStep t = .next t

/-- R35, with R229 and R245 in part: a completion clears BUSY and sets DONE; `irq` is the level DONE AND DONE_IE, 0 after reset, cleared by
writing 1 to bit 1 of STATUS, masked by DONE_IE, lowered by a render start of some length. -/
def Obligations.CompletionRaisesTheInterrupt : Prop :=
  ∀ s : State, exec .renderComplete s = .next { s with busy := false, done := true } ∧
    (s.irq = true ↔ s.done = true ∧ s.doneIe = true) ∧ State.reset.irq = false ∧
    (∀ t, exec .renderComplete s = .next t → t.irq = s.doneIe) ∧
    (∀ (v : Word) t, exec (.wrStatus v) s = .next t → t.irq = (s.irq && !v.getLsbD 1)) ∧
    (∀ (v : Word) t, exec (.wrIrqEn v) s = .next t → t.irq = (s.done && v.getLsbD 0)) ∧
    ∀ t, s.totalSamples ≠ 0 → exec .renderStart s = .next t → t.irq = false

/-- R228, R175: a sample step performs its operations in the order of its pseudocode, each selected as R90 says, stores the byte at index
PROGRESS, increments PROGRESS and completes the render with its last sample; idle, none runs. Nothing is said of the working set
afterwards. -/
def Obligations.SampleStepFollowsItsPseudocode : Prop :=
  (∀ s : State, s.busy = false → exec .sampleStep s = .next s) ∧
  ∀ s : State, s.busy = true → ∃ w : Datapath,
    exec .sampleStep s =
      andThen (execAll [.oscEval 7, .oscEval 6, .oscEval 3, .oscEval 2, .oscEval 5, .oscEval 1, .oscEval 4, .oscEval 0] s)
        fun s1 => andThen (exec (.bqCascade s1.dp.o[0]) s1)
        fun s2 => andThen (exec (if 0 < s2.render.cl then .crushHold s2.dp.v else .crushOff s2.dp.v) s2)
        fun s3 => andThen (exec (if s3.render.seg = 465 then .envHold else .envInterp) s3)
        fun s4 => andThen (exec .envAdvance s4)
        fun s5 => andThen (exec (.postScale s5.dp.e s5.dp.v) s5)
        fun s6 => andThen (exec (if s6.qmode then .quantClamp s6.dp.s else .quantWrap s6.dp.s) s6)
        fun s7 =>
          let t : State := { s7 with
            buf := Memory.write s7.buf s.progress.toNat s7.dp.q
            progress := s.progress + 1#32
            dp := w }
          if s.progress + 1#32 = s.length then exec .renderComplete t else .next t

/-- R228, the frame of a sample step: it writes BUF at index PROGRESS and nowhere else, PROGRESS, the render state except its latched
constants (R40), and with the last sample BUSY and DONE. -/
def Obligations.SampleStepChangesOnlyTheRender : Prop :=
  ∀ s : State, s.busy = true → ∃ t, exec .sampleStep s = .next t ∧
    t = { s with progress := s.progress + 1#32, busy := t.busy, done := t.done, render := t.render, buf := t.buf, dp := t.dp } ∧
    (∀ i : Nat, i ≠ s.progress.toNat → t.bufByte i = s.bufByte i) ∧
    t.render.total = s.render.total ∧ t.render.sps = s.render.sps ∧ t.render.cl = s.render.cl ∧
    t.render.dcv = s.render.dcv ∧
    (if s.progress + 1#32 = s.length then t.busy = false ∧ t.done = true else t.busy = true ∧ t.done = s.done)

/-- R149: OSC_EVAL performs, on the base parameters of R130, the FM and then the AM operation that each input slot selects, in
ascending slot id over the inputs of R132, then GEN at the phase before the advance, the amplitude, the combine operations, and
the phase advance with the working frequency. -/
def Obligations.OscEvalFollowsItsPseudocode : Prop :=
  ∀ (s : State) (n : Fin 8),
    let inputs := (#v[[8, 9], [5, 6], [2, 3], [0], [7], [4], [1], []] : Vector (List (Fin 10)) 8)[n]
    let p := fun c : Fin 4 => fmul (s.patch.dial[4 * n.val + c.val]'(by omega)) (s.cfg.dialScale[4 * n.val + c.val]'(by omega))
    exec (.oscEval n) s =
      andThen (execAll (inputs.flatMap fun k =>
          [decodeFm (slotFm s.patch.slot[k]) k, decodeAm (slotAm s.patch.slot[k]) k])
        { s with dp := { s.dp with f := p 0, a := p 1, r := p 2, t := p 3 } })
        fun s1 => andThen (exec (.gen s1.dp.t s.render.phase[n] s1.dp.r) s1)
        fun s2 => andThen (execAll (inputs.map fun k => decodeMul (slotMul s.patch.slot[k]) k)
          { s2 with dp := { s2.dp with g := fmul s2.dp.a s2.dp.y } })
        fun s3 => andThen (exec (.phaseAdvance n s3.dp.f) s3)
        fun s4 => .next { s4 with dp := { s4.dp with o := s4.dp.o.set n s4.dp.g } }

/-- R149, the frame of OSC_EVAL: it completes, and changes the phase of its oscillator, its output and the working set only. -/
def Obligations.OscEvalChangesOnlyItsPhaseAndOutput : Prop :=
  ∀ (s : State) (n : Fin 8), ∃ t, exec (.oscEval n) s = .next t ∧
    t = { s with render := { s.render with phase := t.render.phase }, dp := t.dp } ∧
    (∀ m : Fin 8, m ≠ n → t.render.phase[m] = s.render.phase[m] ∧ t.dp.o[m] = s.dp.o[m])

/-! ## The sine table and the generator -/

/-- R100: every entry of the table is the real sine rounded once to binary32. -/
def Obligations.SineTableIsCorrectlyRounded : Prop :=
  ∀ k : BitVec 16, NearestEven (Real.sin (2 * Real.pi * (k.toNat : ℝ) / 65536)) (sine k)

/-- R101, and the symmetries R100 derives: the lookup masks its index to 16 bits; the table is odd and symmetric about a quarter
turn. -/
def Obligations.SineLookupIsMaskedAndSymmetric : Prop :=
  (∀ (s : State) (idx : Word),
    exec (.sineLookup idx) s = .next { s with dp := { s.dp with y := sine (BitVec.ofNat 16 (idx.toNat % 65536)) } }) ∧
  (∀ k : Nat, 0 < k → k < 32768 → sine (BitVec.ofNat 16 (65536 - k)) = sine (BitVec.ofNat 16 k) ^^^ 0x80000000#32) ∧
  ∀ k : Nat, k ≤ 32768 → sine (BitVec.ofNat 16 (32768 - k)) = sine (BitVec.ofNat 16 k)

/-- R8, R107: HARMONIC_COUNT of any configuration is in 1 .. HMAX and never decreases over the finite values; where it is the
spec's default function, with any HMAX, it is 1 for NaN and below 1.0, HMAX for +inf and the floor up to HMAX else; nothing but
the returned value changes. The block has the default function and HMAX 64 after reset (log entry 5). -/
def Obligations.HarmonicCountIsTheBoundedFloor : Prop :=
  (∀ (s : State) (r : F), ∃ N : Nat, exec (.harmonicCount r) s = .next { s with dp := { s.dp with n := N } } ∧
    (paramsOk s.cfg → 1 ≤ N ∧ N ≤ s.cfg.hmax) ∧
    (s.cfg.harmonics = .standard → (isNaN r = true → N = 1) ∧
      (isInf r = true → N = if fSign r then 1 else s.cfg.hmax) ∧
      (isFinite r = true → (N : ℤ) = if fValue r < 1 then 1 else min ⌊fValue r⌋ s.cfg.hmax))) ∧
  (∀ (s ta tb : State) (a b : F), paramsOk s.cfg → isFinite a = true → isFinite b = true → fle a b = true →
    exec (.harmonicCount a) s = .next ta → exec (.harmonicCount b) s = .next tb → ta.dp.n ≤ tb.dp.n) ∧
  State.reset.cfg.harmonics = .standard ∧ State.reset.cfg.hmax = 64

/-- R108: the band code is the number of thresholds RN(k/6), k = 1 .. 5, at or below the shape parameter; NaN selects band 0. -/
def Obligations.BandCountsTheThresholds : Prop :=
  (∀ k : Fin 5, NearestEven (((k.val + 1 : ℚ) / 6 : ℚ) : ℝ)
    (#v[0x3E2AAAAB#32, 0x3EAAAAAB#32, 0x3F000000#32, 0x3F2AAAAB#32, 0x3F555555#32] : Vector F 5)[k]) ∧
  ∀ (s : State) (t : F), ∃ b : Band, exec (.bandSelect t) s = .next { s with dp := { s.dp with band := b } } ∧
    (isNaN t = true → b = .sine) ∧ (isInf t = true → b = if fSign t then .sine else .impulse) ∧
    (isFinite t = true → (bandCode b).toNat =
      [0x3E2AAAAB#32, 0x3EAAAAAB#32, 0x3F000000#32, 0x3F2AAAAB#32, 0x3F555555#32].countP
        fun th => decide (fValue th ≤ fValue t))

/-- R110: GEN returns what the one shape that BAND(t) selects returns, with HARMONIC_COUNT(r) harmonics; nothing else changes. -/
def Obligations.GenPerformsTheSelectedShape : Prop :=
  ∀ (s : State) (t : F) (p : Word) (r : F), ∃ N : Nat, ∃ b : Band, ∃ y : F,
    exec (.harmonicCount r) s = .next { s with dp := { s.dp with n := N } } ∧
    exec (.bandSelect t) s = .next { s with dp := { s.dp with band := b } } ∧
    exec (.gen t p r) s = exec (decodeBand b p N r) s ∧ exec (.gen t p r) s = .next { s with dp := { s.dp with y := y } }

/-- R111 to R115: the sine, and each harmonic series as the loop of its pseudocode, for every harmonic count. -/
def Obligations.HarmonicSeriesFollowTheirLoops : Prop :=
  ∀ (s : State) (p : Word) (n : Nat),
    exec (.shapeSine p) s = .next { s with dp := { s.dp with y := sine (BitVec.ofNat 16 (p.toNat / 65536)) } } ∧
    exec (.shapeSlant p n) s = .next { s with dp := { s.dp with
      y := harmonicLoop (fun h acc => fadd acc (fmul (w2 h) (sine (hidx h p)))) 2 n n 3 (sine (hidx 1 p)) } } ∧
    exec (.shapeSquare p n) s = .next { s with dp := { s.dp with
      y := harmonicLoop (fun h acc => fadd acc (fmul (w1 h) (sine (hidx h p)))) 2 n n 1 0#32 } } ∧
    exec (.shapeSaw p n) s = .next { s with dp := { s.dp with
      y := harmonicLoop (fun h acc => fadd acc (fmul (w1 h) (sine (hidx h p)))) 1 n n 1 0#32 } } ∧
    exec (.shapeTri p n) s = .next { s with dp := { s.dp with
      y := harmonicLoop (fun h acc => if (h - 1) / 2 % 2 = 0 then fadd acc (fmul (w2 h) (sine (hidx h p)))
        else fsub acc (fmul (w2 h) (sine (hidx h p)))) 2 n n 1 0#32 } }

/-- The corner cases of R112 to R115: one harmonic (and two, where the second is not in the series) gives the plain sine. -/
def Obligations.OneHarmonicIsThePlainSine : Prop :=
  ∀ (s : State) (p : Word) (n : Nat), n = 1 ∨ n = 2 →
    exec (.shapeSlant p n) s = exec (.shapeSine p) s ∧ exec (.shapeSquare p n) s = exec (.shapeSine p) s ∧
    exec (.shapeTri p n) s = exec (.shapeSine p) s ∧ exec (.shapeSaw p 1) s = exec (.shapeSine p) s

/-- R116: the ten partials in ascending order, each included when the resolution reaches its threshold; a NaN resolution includes
none. -/
def Obligations.ImpulseSumsTheGatedPartials : Prop :=
  ∀ (s : State) (p : Word) (r : F), ∃ y : F,
    exec (.shapeImpulse p r) s = .next { s with dp := { s.dp with y := y } } ∧
    (isNaN r = true → y = 0#32) ∧
    y = harmonicLoop (fun k acc =>
      if fge r (s.cfg.impT.toList.getD (k - 1) 0#32) then
        fadd acc (fmul (s.cfg.impW.toList.getD (k - 1) 0#32) (sine (hidx (s.cfg.impH.toList.getD (k - 1) 0) p)))
      else acc) 1 10 10 1 0#32

/-- R104, R105, R106: the weights are RN(1/h) and RN(1/h²) for every harmonic, from the table or directly. -/
def Obligations.WeightsAreCorrectlyRounded : Prop :=
  ∀ h : Nat, 1 ≤ h → NearestEven ((1 / (h : ℚ) : ℚ) : ℝ) (w1 h) ∧ NearestEven ((1 / ((h : ℚ) * h) : ℚ) : ℝ) (w2 h)

/-! ## The router and the phase accumulator -/

/-- R15, R134: TANH has the properties R15 allows a model to assume, and SQUISH is its absolute value: in [0, 1] for every operand but
NaN, +0.0 for a zero and 1.0 for an infinity; NaN for NaN. -/
def Obligations.SquishIsBounded : Prop :=
  (tanhF 0#32 = 0#32 ∧ tanhF 0x80000000#32 = 0x80000000#32 ∧ tanhF 0x7F800000#32 = 0x3F800000#32 ∧
    tanhF 0xFF800000#32 = 0xBF800000#32 ∧ (∀ x : F, isNaN x = true → isNaN (tanhF x) = true) ∧
    ∀ x : F, isFinite x = true → fle (fabs (tanhF x)) 0x3F800000#32 = true) ∧
  ∀ (s : State) (u : F), ∃ y : F, exec (.squish u) s = .next { s with dp := { s.dp with y := y } } ∧
    y = fabs (tanhF u) ∧ (isNaN u = true → isNaN y = true) ∧ (isNaN u = false → inRange 0#32 y = true) ∧
    (isZero u = true → y = 0#32) ∧ (isInf u = true → y = 0x3F800000#32)

/-- R135 to R142 and R145 to R148: each selector operation changes the one working parameter it names, by the upstream sample of its
slot (R131) or its squish. -/
def Obligations.SelectorsChangeOneParameter : Prop :=
  ∀ (s : State) (k : Fin 10) (u q : F),
    u = s.dp.o[(#v[7, 7, 3, 6, 6, 2, 5, 5, 1, 4] : Vector (Fin 8) 10)[k]] →
    exec (.squish u) s = .next { s with dp := { s.dp with y := q } } →
    exec (.fmOff k) s = .next s ∧ exec (.fmFreq k) s = .next { s with dp := { s.dp with f := fmul s.dp.f u } } ∧
    exec (.fmShape k) s = .next { s with dp := { s.dp with t := fmul s.dp.t q } } ∧
    exec (.fmRes k) s = .next { s with dp := { s.dp with r := fmul s.dp.r q } } ∧
    exec (.amOff k) s = .next s ∧ exec (.amAmp k) s = .next { s with dp := { s.dp with a := fmul s.dp.a u } } ∧
    exec (.amRes k) s = .next { s with dp := { s.dp with r := fmul s.dp.r q } } ∧
    exec (.amShape k) s = .next { s with dp := { s.dp with t := fmul s.dp.t q } } ∧
    exec (.mulOff k) s = .next s ∧ exec (.mulAdd k) s = .next { s with dp := { s.dp with g := fadd s.dp.g u } } ∧
    exec (.mulSub k) s = .next { s with dp := { s.dp with g := fsub s.dp.g u } } ∧
    exec (.mulMul k) s = .next { s with dp := { s.dp with g := fmul s.dp.g u } }

/-- R150: the increment is 0 for NaN and infinities, else the quotient by the sample rate in units of 2^-32 turn, rounded to nearest
even, modulo 2^32; the sample rate is converted exactly (R9, R13). -/
def Obligations.PhaseIncrementRoundsTheQuotient : Prop :=
  ∀ (s : State) (f : F), ∃ w : Word, exec (.phaseInc f) s = .next { s with dp := { s.dp with inc := w } } ∧
    (isNaN f = true ∨ isInf f = true → w = 0#32) ∧
    (isFinite f = true → ∃ k : ℤ, NearestEvenInt (fValue (fdiv f (toF s.cfg.sampleRate)) * 2 ^ 32) k ∧ w = BitVec.ofInt 32 k) ∧
    (paramsOk s.cfg → fValue (toF s.cfg.sampleRate) = s.cfg.sampleRate)

/-- R151: the increment is added to the phase of the oscillator modulo 2^32; nothing else changes. -/
def Obligations.PhaseAdvanceAddsModulo : Prop :=
  ∀ (s : State) (n : Fin 8) (f : F), ∃ w : Word,
    exec (.phaseInc f) s = .next { s with dp := { s.dp with inc := w } } ∧
    exec (.phaseAdvance n f) s = .next { s with render := { s.render with
      phase := s.render.phase.set n (BitVec.ofNat 32 ((s.render.phase[n].toNat + w.toNat) % 2 ^ 32)) } }

/-! ## The filter -/

/-- R161, R162, R163: the bypass predicate on the scaled coefficients, the pass-through of a bypassed section, and the output and
history of an active one; a section whose five dials are +0.0 is bypassed. -/
def Obligations.BiquadSectionsFollowTheirRules : Prop :=
  ∀ (s : State) (j : Fin 3) (x : F),
    let c := fun k : Fin 5 =>
      fmul (s.patch.dial[32 + 5 * j.val + k.val]'(by omega)) (s.cfg.dialScale[32 + 5 * j.val + k.val]'(by omega))
    let h := s.render.bq[j]
    let y := fsub (fsub (fadd (fadd (fmul (c 0) x) (fmul (c 1) h.x1)) (fmul (c 2) h.x2)) (fmul (c 3) h.y1)) (fmul (c 4) h.y2)
    (s.bypassed j = true ↔ ∀ k : Fin 5, fle (fabs (c k)) 0x3C23D70A#32 = true) ∧
    exec (.bqBypass j x) s = .next { s with dp := { s.dp with v := x } } ∧
    exec (.bqActive j x) s = .next { s with
      render := { s.render with bq := s.render.bq.set j ⟨x, h.x1, y, h.y1⟩ }, dp := { s.dp with v := y } } ∧
    (paramsOk s.cfg → (∀ k : Fin 5, s.patch.dial[32 + 5 * j.val + k.val]'(by omega) = 0#32) → s.bypassed j = true)

/-- R164: the sections run in the order 1, 2, 3, each the operation its bypass bit selects and each on the sample before it; with all
three bypassed the cascade is the identity. -/
def Obligations.CascadeRunsItsSectionsInOrder : Prop :=
  ∀ (s : State) (x : F),
    let op := fun (j : Fin 3) (v : F) => if s.bypassed j then Instr.bqBypass j v else .bqActive j v
    exec (.bqCascade x) s = andThen (exec (op 0 x) s) (fun s1 => andThen (exec (op 1 s1.dp.v) s1)
      fun s2 => exec (op 2 s2.dp.v) s2) ∧
    (∃ t, exec (.bqCascade x) s = .next t ∧
      t = { s with render := { s.render with bq := t.render.bq }, dp := { s.dp with v := t.dp.v } } ∧
      ∀ j : Fin 3, s.bypassed j = true → t.render.bq[j] = s.render.bq[j]) ∧
    ((∀ j : Fin 3, s.bypassed j = true) → exec (.bqCascade x) s = .next { s with dp := { s.dp with v := x } })

/-! ## The post stages -/

/-- R178, R179: the interpolated value below segment 465, the last breakpoint at it; at step 0 the value is exactly the breakpoint's. -/
def Obligations.EnvelopeInterpolatesAndHolds : Prop :=
  ∀ s : State, exec .envHold s = .next { s with dp := { s.dp with e := s.patch.env[465] } } ∧
    ∀ h : s.render.seg < 465, ∃ e : F, exec .envInterp s = .next { s with dp := { s.dp with e := e } } ∧
      e = fadd s.patch.env[s.render.seg] (fmul (fsub s.patch.env[s.render.seg + 1] s.patch.env[s.render.seg])
        (fdiv (toF s.render.step) (toF s.render.sps))) ∧
      (s.patchOk → s.render.step = 0 → 1 ≤ s.render.sps → s.render.sps < 2 ^ 24 →
        feq e s.patch.env[s.render.seg] = true)

/-- R180: after n sample steps of the envelope the segment has advanced once every SPS steps and stops at 465. -/
def Obligations.EnvelopeAdvancesEverySegment : Prop :=
  ∀ (s : State) (n : Nat), s.render.seg ≤ 465 → s.render.step < s.render.sps →
    exec .envAdvance s = .next (envAdvances 1 s) ∧
    envAdvances n s = { s with render := { s.render with
      step := (s.render.step + n) % s.render.sps
      seg := min 465 (s.render.seg + (s.render.step + n) / s.render.sps) } }

/-- R182, R183: crush off passes the sample; crush on, started with the counter at 0, gives every sample of an aligned group of CL the
group's first. -/
def Obligations.CrushHoldsAlignedGroups : Prop :=
  (∀ (s : State) (v : F), exec (.crushOff v) s = .next { s with dp := { s.dp with v := v } }) ∧
  (∀ (s : State) (v : F), 0 < s.render.cl → ∃ held : F,
    exec (.crushHold v) s = .next { s with
      render := { s.render with val := held, cnt := (s.render.cnt + 1) % s.render.cl }, dp := { s.dp with v := held } } ∧
    held = if s.render.cnt = 0 then v else s.render.val) ∧
  ∀ (s : State) (xs : List F), 0 < s.render.cl → s.render.cnt = 0 →
    crushes xs s = (List.range xs.length).map fun k => xs.getD (k - k % s.render.cl) 0#32

/-- R185: the sample times the envelope value, less the DC value, each operation rounded; with a zero envelope value and finite operands
the value is minus the DC value. -/
def Obligations.PostScaleSubtractsTheOffset : Prop :=
  ∀ (s : State) (e v : F), ∃ x : F, exec (.postScale e v) s = .next { s with dp := { s.dp with s := x } } ∧
    x = fsub (fmul e v) s.render.dcv ∧
    (isZero e = true → isFinite v = true → isFinite s.render.dcv = true → fValue x = -fValue s.render.dcv)

/-- R186: truncation toward zero and the low 8 bits; 0 for NaN, infinities and values outside the signed 32-bit range. -/
def Obligations.WrappingQuantizerTruncates : Prop :=
  ∀ (s : State) (x : F), ∃ q : Byte, exec (.quantWrap x) s = .next { s with dp := { s.dp with q := q } } ∧
    (isFinite x = false → q = 0#8) ∧
    (isFinite x = true → q =
      if -(2 ^ 31) ≤ truncQ (fValue x) ∧ truncQ (fValue x) ≤ 2 ^ 31 - 1 then BitVec.ofInt 8 (truncQ (fValue x)) else 0#8)

/-- R187: truncation toward zero and saturation to -128 .. 127; 0 for NaN. -/
def Obligations.ClampingQuantizerSaturates : Prop :=
  ∀ (s : State) (x : F), ∃ q : Byte, exec (.quantClamp x) s = .next { s with dp := { s.dp with q := q } } ∧
    (isNaN x = true → q = 0#8) ∧ (isInf x = true → q = if fSign x then 0x80#8 else 0x7F#8) ∧
    (isFinite x = true → q.toInt = min (max (truncQ (fValue x)) (-128)) 127)

/-! ## Binary32 arithmetic -/

/-- R13: sums and differences of finite operands are correctly rounded. -/
def Obligations.SumsAreCorrectlyRounded : Prop :=
  ∀ a b : F, isFinite a = true → isFinite b = true →
    NearestEven ((fValue a + fValue b : ℚ) : ℝ) (fadd a b) ∧ NearestEven ((fValue a - fValue b : ℚ) : ℝ) (fsub a b)

/-- R13: products of finite operands are correctly rounded. -/
def Obligations.ProductsAreCorrectlyRounded : Prop :=
  ∀ a b : F, isFinite a = true → isFinite b = true → NearestEven ((fValue a * fValue b : ℚ) : ℝ) (fmul a b)

/-- R13: quotients of finite operands by non-zero ones are correctly rounded. -/
def Obligations.QuotientsAreCorrectlyRounded : Prop :=
  ∀ a b : F, isFinite a = true → isFinite b = true → isZero b = false →
    NearestEven ((fValue a / fValue b : ℚ) : ℝ) (fdiv a b)

/-- R13: the comparisons of finite operands are those of their values, and every comparison with a NaN is false. -/
def Obligations.ComparisonsFollowValues : Prop :=
  (∀ a b : F, isFinite a = true → isFinite b = true →
    (flt a b = true ↔ fValue a < fValue b) ∧ (fle a b = true ↔ fValue a ≤ fValue b) ∧
      (fgt a b = true ↔ fValue b < fValue a) ∧ (fge a b = true ↔ fValue b ≤ fValue a) ∧
      (feq a b = true ↔ fValue a = fValue b)) ∧
  ∀ a b : F, isNaN a = true ∨ isNaN b = true →
    flt a b = false ∧ fle a b = false ∧ fgt a b = false ∧ fge a b = false ∧ feq a b = false

/-! ## The block -/

/-- The state after reset meets the invariant. -/
def Obligations.ResetStateMeetsInvariant : Prop := State.Inv State.reset

/-- Every transition keeps the invariant: valid configuration (R9) and patch (R22, R24, R25), counters in range (R38, R39, R40),
PROGRESS below LENGTH while rendering and BUSY and DONE never both set, the buffer in canonical form. -/
def Obligations.EveryStepKeepsTheInvariant : Prop :=
  ∀ s t : State, s.Inv → step s = .next t → t.Inv

/-- R271: left alone, a running render completes after exactly LENGTH - PROGRESS transitions, and is running until then. -/
def Obligations.RunningRenderCompletes : Prop :=
  ∀ s : State, s.busy = true → s.agenda = [] → s.progress.toNat < s.length.toNat →
    (∃ t, Sys2Proof.core.run (s.length.toNat - s.progress.toNat) s = .next t ∧ t.busy = false ∧ t.done = true ∧
      t.progress = s.length ∧ t.length = s.length) ∧
    ∀ k < s.length.toNat - s.progress.toNat, ∃ u, Sys2Proof.core.run k s = .next u ∧ u.busy = true ∧
      u.progress.toNat = s.progress.toNat + k

/-- R230: host accesses of any kind, interleaved in any way with the sample steps of a running render, leave everything the render reads
and writes as the sample steps alone leave it; and what can be read from the buffer of a render started while idle is, at its
completion, what its sample steps alone produce. The schedule is the model's form of the interleaving (log entry 6). -/
def Obligations.HostAccessesDoNotDisturbARender : Prop :=
  (∀ (s : State) (l : List Event), s.busy = true → (∀ e ∈ l, e ≠ .reset) →
    s.progress.toNat + engineTurns l < s.length.toNat →
    ∃ t u : State, Sys2Proof.core.run l.length { s with agenda := l } = .next t ∧
      Sys2Proof.core.run (engineTurns l) { s with agenda := [] } = .next u ∧ State.sameRender t u) ∧
  ∀ (s r : State) (l : List Event), s.busy = false → exec .renderStart s = .next r → (∀ e ∈ l, e ≠ .reset) →
    engineTurns l + 1 = r.length.toNat →
    ∃ t : State, Sys2Proof.core.run (l.length + 1) { r with agenda := l ++ [.engine] } = .next t ∧
      t.busy = false ∧ t.done = true ∧ t.length = r.length ∧ t.progress = r.length ∧ t.patch = s.patch ∧
      ∀ i < r.length.toNat, t.bufLane i = (sampleSteps r.length.toNat r).bufByte i

/-- R232: two renders with the same patch, CONFIG, DURATION and parameters produce the same LENGTH and the same bytes, whatever the
render state, the buffer and the flags were before. -/
def Obligations.RendersAreDeterministic : Prop :=
  ∀ s₁ s₂ t₁ t₂ : State, s₁.Inv → s₂.Inv → s₁.cfg = s₂.cfg → s₁.patch = s₂.patch → s₁.qmode = s₂.qmode →
    s₁.duration = s₂.duration → s₁.busy = false → s₂.busy = false →
    exec .renderStart s₁ = .next t₁ → exec .renderStart s₂ = .next t₂ →
    t₁.length = t₂.length ∧
      ∀ i < t₁.length.toNat,
        (sampleSteps t₁.length.toNat t₁).bufByte i = (sampleSteps t₂.length.toNat t₂).bufByte i

/-- R231: no operation of the render (none but the host's transactions) writes the patch, CONFIG, DURATION or the configuration; the
patch after a render start and any number of sample steps is the patch before. -/
def Obligations.RendersNeverWriteThePatch : Prop :=
  (∀ (s : State) (op : Instr), (∀ (T : Desc) (d : Word), op ≠ decodeBus T d) →
    ∃ t, exec op s = .next t ∧ t.patch = s.patch ∧ t.qmode = s.qmode ∧ t.duration = s.duration ∧ t.cfg = s.cfg) ∧
  ∀ (s r : State) (n : Nat), exec .renderStart s = .next r → (sampleSteps n r).patch = s.patch

/-- R71: after a completed render every byte of the buffer reads the same through any host access that is not a START. -/
def Obligations.CompletedBufferStaysReadable : Prop :=
  ∀ (s : State) (T : Desc) (d : Word), s.busy = false → ¬(T = 0x1800004#25 ∧ d.getLsbD 0 = true) →
    ∃ t, exec (decodeBus T d) s = .next t ∧ t.busy = false ∧ t.length = s.length ∧ t.progress = s.progress ∧
      (∀ i : Nat, t.bufByte i = s.bufByte i) ∧ ∀ i : Nat, t.bufLane i = s.bufLane i

/-- R260, R261: the reset transition gives every register its value of R47 and leaves the block idle with DONE and LENGTH 0, so that
every buffer read returns 0; BUF is not cleared. -/
def Obligations.ResetTransitionAbortsAndClears : Prop :=
  ∀ (s : State) (rest : List Event) (i : BitVec 21), s.agenda = .reset :: rest →
    ∃ t : State, step s = .next t ∧
      t.busy = false ∧ t.done = false ∧ t.errBusy = false ∧ t.errAddr = false ∧ t.length = 0#32 ∧ t.progress = 0#32 ∧
      t.duration = 0#32 ∧ t.qmode = false ∧ t.doneIe = false ∧ t.irq = false ∧ t.patch.sectionLength = 3#6 ∧
      (∀ k : Fin 50, t.patch.dial[k] = 0#32) ∧ (∀ k : Fin 10, t.patch.slot[k] = 0#6) ∧
      (∀ k : Fin 466, t.patch.env[k] = 0#32) ∧ (∀ n : Fin 8, t.render.phase[n] = 0#32) ∧
      (∀ j : Fin 3, t.render.bq[j] = ⟨0#32, 0#32, 0#32, 0#32⟩) ∧ t.render.seg = 0 ∧ t.render.step = 0 ∧ t.render.cnt = 0 ∧
      t.render.val = 0#32 ∧ t.render.total = 0 ∧ t.render.sps = 0 ∧ t.render.cl = 0 ∧ t.render.dcv = 0#32 ∧
      t.buf = s.buf ∧ t.readReg .id = 0x42455233#32 ∧ t.readReg .ctrl = 0#32 ∧
      exec (.rdBuf8 i) t = .next { t with rdata := 0#32 } ∧ exec (.rdBuf16 i) t = .next { t with rdata := 0#32 } ∧
      exec (.rdBuf32 i) t = .next { t with rdata := 0#32 }

/-- The source's first property (95_test_vectors S1): with every dial at 0, every slot off, the crush off and a zero DC value, a sample
step stores the byte 0, in either quantizer mode. -/
def Obligations.ZeroPatchRendersSilence : Prop :=
  ∀ s : State, s.Inv → s.busy = true → (∀ i : Fin 50, s.patch.dial[i] = 0#32) → (∀ k : Fin 10, s.patch.slot[k] = 0#6) →
    s.render.cl = 0 → isZero s.render.dcv = true →
    ∃ t, exec .sampleStep s = .next t ∧ t.bufByte s.progress.toNat = 0#8
end

