-- ==== Sys2Proof/Laws/Decode.lean ====
section
/-! SUPPORT. The fields of descriptors, the address map, and what the decoder of transactions gives for each kind of access. -/

namespace Sys2Proof.Machine

/-- The three fields of a descriptor built from them (R80). -/
theorem descWe_mkDesc (we : Bool) (size : BitVec 2) (addr : BitVec 22) : descWe (mkDesc we size addr) = we := by
  simp only [descWe, mkDesc, BitVec.getLsbD_cast, BitVec.getLsbD_append]; simp

theorem descSize_mkDesc (we : Bool) (size : BitVec 2) (addr : BitVec 22) : descSize (mkDesc we size addr) = size := by
  apply BitVec.eq_of_getLsbD_eq; intro j hj
  simp only [descSize, mkDesc, BitVec.getLsbD_extractLsb', BitVec.getLsbD_cast, BitVec.getLsbD_append]
  interval_cases j <;> simp

theorem descAddr_mkDesc (we : Bool) (size : BitVec 2) (addr : BitVec 22) : descAddr (mkDesc we size addr) = addr := by
  apply BitVec.eq_of_getLsbD_eq; intro j hj
  simp only [descAddr, mkDesc, BitVec.getLsbD_extractLsb', BitVec.getLsbD_cast, BitVec.getLsbD_append]
  simp [hj]

/-- A descriptor is its three fields (R80). -/
theorem mkDesc_fields (T : Desc) : mkDesc (descWe T) (descSize T) (descAddr T) = T := by
  apply BitVec.eq_of_getLsbD_eq; intro j hj
  simp only [descWe, descSize, descAddr, mkDesc, BitVec.getLsbD_extractLsb', BitVec.getLsbD_cast, BitVec.getLsbD_append]
  interval_cases j <;> simp

/-- The address map and its inverse (R61). -/
theorem regAt_regAddr (r : RegName) : regAt (regAddr r) = some r := by
  cases r with
  | dial i => revert i; decide +kernel
  | slot s => revert s; decide +kernel
  | env k => revert k; decide +kernel
  | _ => rfl

/-- Every register lies at a multiple of 4 below 0x1000 (R61). -/
theorem regAddr_bounds (r : RegName) : regAddr r < 0x1000 ∧ regAddr r % 4 = 0 := by
  cases r <;> simp only [regAddr] <;> first | omega | decide

theorem toNat_regAddr (r : RegName) : (BitVec.ofNat 22 (regAddr r)).toNat = regAddr r := by
  have := regAddr_bounds r
  rw [BitVec.toNat_ofNat]; omega

/-- A register the map gives lies at its address (R61). -/
theorem regAddr_of_regAt {a : Nat} {r : RegName} (h : regAt a = some r) : regAddr r = a := by
  unfold regAt at h
  split at h; · cases h
  split at h
  · rename_i h4 h8
    simp only [Option.some.injEq] at h
    subst h
    obtain ⟨q, hq⟩ : ∃ q, a = 4 * q := ⟨a/4, by omega⟩
    subst hq
    have hq8 : q < 8 := by omega
    simp only [Nat.mul_div_cancel_left q (show 0 < 4 by decide)]
    interval_cases q <;> rfl
  split at h
  · simp only [Option.some.injEq] at h; subst h; simp only [regAddr]; omega
  split at h
  · simp only [Option.some.injEq] at h; subst h; simp only [regAddr]; omega
  split at h
  · simp only [Option.some.injEq] at h; subst h; simp only [regAddr]; omega
  split at h
  · simp only [Option.some.injEq] at h; subst h; simp only [regAddr]; omega
  · cases h

/-- A 4-byte access of a register's address (R93). -/
theorem decodeBus_register (we : Bool) (r : RegName) (v : Word) :
   decodeBus (mkDesc we 0b10#2 (BitVec.ofNat 22 (regAddr r))) v = if we then writeOf r v else .rdReg r := by
  have h := regAddr_bounds r
  unfold decodeBus
  simp only [descWe_mkDesc, descSize_mkDesc, descAddr_mkDesc, toNat_regAddr, regAt_regAddr]
  have hb : inBuffer (BitVec.ofNat 22 (regAddr r)) = false := by
    rw [inBuffer, BitVec.getLsbD, toNat_regAddr, Nat.testBit_eq_decide_div_mod_eq]
    simp; omega
  simp [widthOf, hb, widthBytes, h.2]

/-- The buffer region is the upper half of the address space (R61). -/
theorem toNat_bufferAddr (i : BitVec 21) : ((1#1 ++ i).cast rfl : BitVec 22).toNat = 0x200000 + i.toNat := by
  rw [BitVec.toNat_cast, BitVec.toNat_append, Nat.shiftLeft_eq]
  have h := Nat.two_pow_add_eq_or_of_lt (i := 21) i.isLt 1
  rw [mul_comm]
  exact h.symm

theorem widthOf_widthCode (w : Width) : widthOf (widthCode w) = some w := by cases w <;> rfl

theorem widthCode_of_widthOf {c : BitVec 2} {w : Width} (h : widthOf c = some w) : widthCode w = c := by
  revert c w; decide

theorem widthBytes_cases (w : Width) : widthBytes w = 1 ∨ widthBytes w = 2 ∨ widthBytes w = 4 := by
  cases w <;> simp [widthBytes]

/-- An aligned access of the buffer region (R93). -/
theorem decodeBus_buffer (we : Bool) (w : Width) (i : BitVec 21) (v : Word) (h : i.toNat % widthBytes w = 0) :
   decodeBus (mkDesc we (widthCode w) ((1#1 ++ i).cast rfl)) v = if we then .wrBuf w i v else readOf w i := by
  unfold decodeBus
  have hi : ((1#1 ++ i).cast rfl : BitVec 22).extractLsb' 0 21 = i := by
    apply BitVec.eq_of_getLsbD_eq; intro j hj
    simp only [BitVec.getLsbD_extractLsb', BitVec.getLsbD_cast, BitVec.getLsbD_append]; simp [hj]
  have hb : inBuffer ((1#1 ++ i).cast rfl : BitVec 22) = true := by
    simp only [inBuffer, BitVec.getLsbD_cast, BitVec.getLsbD_append]; simp
  have hm : (0x200000 + i.toNat) % widthBytes w = 0 := by
    rcases widthBytes_cases w with e | e | e <;> rw [e] at h ⊢ <;> omega
  simp only [descWe_mkDesc, descSize_mkDesc, descAddr_mkDesc, widthOf_widthCode, toNat_bufferAddr, hb, hi, hm]
  simp

/-- An illegal access (R65, R93). -/
theorem decodeBus_illegal (we : Bool) (size : BitVec 2) (addr : BitVec 22) (v : Word) (h : isIllegal size addr = true) :
   decodeBus (mkDesc we size addr) v = .badAccess we size addr (if we then v else 0#32) := by
  unfold decodeBus
  simp only [descWe_mkDesc, descSize_mkDesc, descAddr_mkDesc]
  unfold isIllegal at h
  cases hw : widthOf size with
  | none => rfl
  | some w =>
    rw [hw] at h
    simp only [Bool.or_eq_true, decide_eq_true_eq, Bool.and_eq_true, Bool.not_eq_true', Option.isNone_iff_eq_none] at h
    simp only
    by_cases h1 : addr.toNat % widthBytes w ≠ 0
    · rw [if_pos h1]
    rw [if_neg h1]
    rcases h with h | ⟨h2, h3⟩
    · exact absurd h h1
    rw [h2]
    simp only [Bool.false_eq_true, if_false]
    by_cases h4 : w ≠ .w4
    · rw [if_pos h4]
    rw [if_neg h4]
    rcases h3 with h3 | h3
    · exact absurd h3 h4
    rw [h3]

/-- What a transaction can be: illegal, an access of a register, or one of the buffer (R93). -/
theorem decodeBus_cases (T : Desc) (d : Word) :
    (isIllegal (descSize T) (descAddr T) = true ∧
      decodeBus T d = .badAccess (descWe T) (descSize T) (descAddr T) (if descWe T then d else 0#32)) ∨
    (∃ r : RegName, T = mkDesc (descWe T) 0b10#2 (BitVec.ofNat 22 (regAddr r)) ∧
      isIllegal (descSize T) (descAddr T) = false ∧ decodeBus T d = if descWe T then writeOf r d else .rdReg r) ∨
    ∃ (w : Width) (i : BitVec 21), i.toNat % widthBytes w = 0 ∧
      T = mkDesc (descWe T) (widthCode w) ((1#1 ++ i).cast rfl) ∧ isIllegal (descSize T) (descAddr T) = false ∧
        decodeBus T d = if descWe T then .wrBuf w i d else readOf w i := by
  have hT := mkDesc_fields T
  generalize hwe : descWe T = we at *
  generalize hsz : descSize T = size at *
  generalize had : descAddr T = addr at *
  subst hT
  by_cases hi : isIllegal size addr = true
  · exact .inl ⟨hi, decodeBus_illegal we size addr d hi⟩
  · have hi' : isIllegal size addr = false := by simpa using hi
    refine .inr ?_
    unfold isIllegal at hi'
    cases hw : widthOf size with
    | none => simp [hw] at hi'
    | some w =>
      rw [hw] at hi'
      simp only [Bool.or_eq_false_iff, decide_eq_false_iff_not, not_not, Bool.and_eq_false_iff, Bool.not_eq_false'] at hi'
      obtain ⟨hal, hreg⟩ := hi'
      cases hb : inBuffer addr with
      | true =>
        refine .inr ⟨w, addr.extractLsb' 0 21, ?_⟩
        have ha : ((1#1 ++ addr.extractLsb' 0 21).cast rfl : BitVec 22) = addr := by
          apply BitVec.eq_of_getLsbD_eq
          intro j hj
          simp only [BitVec.getLsbD_cast, BitVec.getLsbD_append, BitVec.getLsbD_extractLsb']
          by_cases h21 : j < 21
          · simp [h21]
          · have : j = 21 := by omega
            subst this
            simpa [inBuffer] using hb
        have hm : (addr.extractLsb' 0 21).toNat % widthBytes w = 0 := by
          have h1 := toNat_bufferAddr (addr.extractLsb' 0 21)
          rw [ha] at h1
          rw [h1] at hal
          rcases widthBytes_cases w with e | e | e <;> rw [e] at hal ⊢ <;> omega
        refine ⟨hm, ?_, by simpa using hi, ?_⟩
        · rw [ha, widthCode_of_widthOf hw]
        · have := decodeBus_buffer we w _ d hm
          rwa [ha, widthCode_of_widthOf hw] at this
      | false =>
        rw [hb] at hreg
        simp only [Bool.false_eq_true, false_or] at hreg
        obtain ⟨h4, hr⟩ : w = .w4 ∧ (regAt addr.toNat).isNone = false := by
          simpa [or_iff_right] using hreg
        cases hr' : regAt addr.toNat with
        | none => simp [hr'] at hr
        | some r =>
          have ha : BitVec.ofNat 22 (regAddr r) = addr := by
            rw [regAddr_of_regAt hr']
            simp
          have hs : size = 0b10#2 := by
            rw [← widthCode_of_widthOf hw, h4]
            rfl
          refine .inl ⟨r, by rw [ha, hs], by simpa using hi, ?_⟩
          have := decodeBus_register we r d
          rwa [ha, ← hs] at this

/-- The registers of the map are at the addresses R93 lists. -/
theorem regAt_isSome (a : Nat) : (regAt a).isSome = registerAddress a := by
  unfold regAt registerAddress
  by_cases h4 : a % 4 = 0
  swap
  · simp [h4]
  rw [if_neg (by simpa using h4)]
  rw [decide_eq_true h4, Bool.true_and]
  split
  · rename_i h; rw [decide_eq_true (show a ≤ 0x1C by omega)]; simp
  rename_i h8
  rw [decide_eq_false (show ¬a ≤ 0x1C by omega)]
  split
  · rename_i h; rw [decide_eq_true (show 0x100 ≤ a by omega), decide_eq_true (show a ≤ 0x1C4 by omega)]; simp
  rename_i h1
  rw [show (decide (256 ≤ a) && decide (a ≤ 452)) = false by simp; omega]
  split
  · rename_i h; rw [decide_eq_true (show 0x200 ≤ a by omega), decide_eq_true (show a ≤ 0x224 by omega)]; simp
  rename_i h2
  rw [show (decide (512 ≤ a) && decide (a ≤ 548)) = false by simp; omega]
  split
  · rename_i h; rw [decide_eq_true h]; simp
  rename_i h3
  rw [decide_eq_false h3]
  split
  · rename_i h; rw [decide_eq_true (show 0x800 ≤ a by omega), decide_eq_true (show a ≤ 0xF44 by omega)]; simp
  rename_i h5
  rw [show (decide (2048 ≤ a) && decide (a ≤ 3908)) = false by simp; omega]
  rfl

theorem inBuffer_iff (a : BitVec 22) : inBuffer a = decide (0x200000 ≤ a.toNat) := by
  have := a.isLt
  rw [inBuffer, BitVec.getLsbD, Nat.testBit_eq_decide_div_mod_eq]
  apply decide_eq_decide.mpr; omega

/-- The illegal accesses, cause by cause (R242, without the writes to the buffer region). -/
theorem isIllegal_iff (size : BitVec 2) (addr : BitVec 22) : isIllegal size addr = true ↔
    (size.toNat = 3 ∨ addr.toNat % 2 ^ size.toNat ≠ 0 ∨ (addr.toNat < 0x200000 ∧ size.toNat ≠ 2) ∨
      (addr.toNat < 0x200000 ∧ registerAddress addr.toNat = false)) := by
  have hs : size = 0#2 ∨ size = 1#2 ∨ size = 2#2 ∨ size = 3#2 := by revert size; decide
  unfold isIllegal
  rw [inBuffer_iff, ← regAt_isSome]
  rcases hs with rfl | rfl | rfl | rfl
  · simp only [widthOf]
    simp [-decide_not]
    simp [widthBytes]
    tauto
  · simp only [widthOf]
    simp [-decide_not]
    simp [widthBytes]
    tauto
  · simp only [widthOf]
    simp [-decide_not]
    simp [widthBytes]
  · simp [widthOf]

end Sys2Proof.Machine
end

