-- ==== Sys2Proof/Laws/Float.lean ====
section
/-! SUPPORT. The binary32 patterns: sign and magnitude of a built pattern, the class of every result, and the comparisons as an
order on integers. -/

namespace Sys2Proof.Machine

theorem fMag_eq_and (x : F) : fMag x = (x &&& 0x7FFFFFFF#32).toNat := by
  rw [fMag, BitVec.toNat_and]
  exact (Nat.and_two_pow_sub_one_eq_mod x.toNat 31).symm

theorem fMag_lt (x : F) : fMag x < 2 ^ 31 := Nat.mod_lt _ (by decide)

theorem fSign_eq (x : F) : fSign x = decide (2 ^ 31 ≤ x.toNat) := by
  have := x.isLt
  rw [fSign, BitVec.getLsbD, Nat.testBit_eq_decide_div_mod_eq]
  apply decide_eq_decide.mpr
  omega

/-- A pattern is its sign and its magnitude. -/
theorem toNat_eq_sign_mag (x : F) : x.toNat = (if fSign x then 2 ^ 31 else 0) + fMag x := by
  have := x.isLt
  rw [fSign_eq, fMag]
  simp only [decide_eq_true_eq]
  split <;> omega

/-- Two patterns of the same sign and magnitude are the same. -/
theorem F_ext {x y : F} (hs : fSign x = fSign y) (hm : fMag x = fMag y) : x = y := by
  apply BitVec.eq_of_toNat_eq
  rw [toNat_eq_sign_mag x, toNat_eq_sign_mag y, hs, hm]

theorem toNat_withSign {neg : Bool} {m : Nat} (h : m < 2 ^ 31) :
    (withSign neg m).toNat = (if neg then 2 ^ 31 else 0) + m := by
  rw [withSign, BitVec.toNat_ofNat]
  cases neg <;> simp <;> omega

@[simp] theorem fSign_withSign {neg : Bool} {m : Nat} (h : m < 2 ^ 31) : fSign (withSign neg m) = neg := by
  rw [fSign_eq, toNat_withSign h]
  cases neg
  · simpa using h
  · simp

@[simp] theorem fMag_withSign {neg : Bool} {m : Nat} (h : m < 2 ^ 31) : fMag (withSign neg m) = m := by
  rw [fMag, toNat_withSign h]
  cases neg <;> simp <;> omega

theorem withSign_fMag (x : F) : withSign (fSign x) (fMag x) = x :=
  F_ext (fSign_withSign (fMag_lt x)) (fMag_withSign (fMag_lt x))

/-! ## Classes -/

/-- Every pattern is in exactly one of the three classes. -/
theorem class_cases (x : F) :
    (isNaN x = true ∧ isInf x = false ∧ isFinite x = false) ∨
      (isNaN x = false ∧ isInf x = true ∧ isFinite x = false) ∨
        (isNaN x = false ∧ isInf x = false ∧ isFinite x = true) := by
  simp only [isNaN, isInf, isFinite, decide_eq_true_eq, decide_eq_false_iff_not]
  omega

theorem isNaN_of_isFinite {x : F} (h : isFinite x = true) : isNaN x = false := by
  rcases class_cases x with ⟨-, -, h'⟩ | ⟨h', -⟩ | ⟨h', -⟩ <;> simp_all

theorem isInf_of_isFinite {x : F} (h : isFinite x = true) : isInf x = false := by
  rcases class_cases x with ⟨-, -, h'⟩ | ⟨-, -, h'⟩ | ⟨-, h', -⟩ <;> simp_all

/-- The result the spec leaves open is a NaN whatever the open bits are (R13). -/
@[simp] theorem isNaN_nanOf (op : FloatOp) (a b : F) : isNaN (nanOf op a b) = true := by
  have h : (nanOf op a b &&& 0x7FFFFFFF#32) &&& 0x7FC00000#32 = 0x7FC00000#32 := by
    unfold nanOf
    generalize Config.nanBits op a b = x
    apply BitVec.eq_of_getLsbD_eq
    intro i hi
    simp only [BitVec.getLsbD_and, BitVec.getLsbD_or]
    interval_cases i <;> simp
  have h2 := congrArg BitVec.toNat h
  rw [BitVec.toNat_and, ← fMag_eq_and] at h2
  have h3 : fMag (nanOf op a b) &&& (0x7FC00000#32).toNat ≤ fMag (nanOf op a b) := Nat.and_le_left
  rw [h2] at h3
  exact decide_eq_true (Nat.lt_of_lt_of_le (by decide) h3)

theorem fMagUnits_eq_zero_iff (x : F) : fMagUnits x = 0 ↔ fMag x = 0 := by
  have hf : fFrac x = fMag x % 2 ^ 23 := by simp only [fFrac, fMag]; omega
  unfold fMagUnits
  split
  · rename_i h
    rw [hf]
    simp only [fExp] at h
    omega
  · rename_i h
    simp only [fExp] at h
    constructor
    · intro h2
      have : 0 < (2 ^ 23 + fFrac x) * 2 ^ (fExp x - 1) := by positivity
      omega
    · intro h2
      rw [h2] at h
      exact absurd rfl h

/-! ## Rounding -/

/-- A rounded magnitude is at most that of infinity. -/
theorem roundRatio_le (n d : Nat) : roundRatio n d ≤ infMag := Nat.min_le_right _ _

theorem roundRatio_lt (n d : Nat) : roundRatio n d < 2 ^ 31 :=
  Nat.lt_of_le_of_lt (roundRatio_le n d) (by decide)

@[simp] theorem isNaN_withSign_roundRatio (neg : Bool) (n d : Nat) : isNaN (withSign neg (roundRatio n d)) = false := by
  simp only [isNaN, fMag_withSign (roundRatio_lt n d), decide_eq_false_iff_not]
  exact Nat.not_lt.mpr (roundRatio_le n d)

theorem roundRatio_zero (d : Nat) : roundRatio 0 d = 0 := by
  simp [roundRatio, rneDiv, Nat.log2]

/-! ## Comparisons -/

/-- Of two values that are not NaN one is below the other or they are equal. -/
theorem flt_trichotomy {a b : F} (ha : isNaN a = false) (hb : isNaN b = false) :
    flt a b = true ∨ feq a b = true ∨ flt b a = true := by
  simp only [flt, feq, ha, hb, Bool.not_false, Bool.true_and, decide_eq_true_eq]
  omega

theorem fle_iff_not_flt {a b : F} (ha : isNaN a = false) (hb : isNaN b = false) : fle a b = !flt b a := by
  simp only [flt, fle, ha, hb, Bool.not_false, Bool.true_and]
  rw [← decide_not]
  exact decide_eq_decide.mpr (by omega)

theorem fle_trans {a b c : F} (h1 : fle a b = true) (h2 : fle b c = true) : fle a c = true := by
  simp only [fle, Bool.and_eq_true, Bool.not_eq_true', decide_eq_true_eq] at *
  exact ⟨⟨h1.1.1, h2.1.2⟩, by omega⟩

theorem fle_refl {a : F} (h : isNaN a = false) : fle a a = true := by simp [fle, h]

theorem isNaN_of_fle_left {a b : F} (h : fle a b = true) : isNaN a = false := by
  simp only [fle, Bool.and_eq_true, Bool.not_eq_true'] at h
  exact h.1.1

theorem isNaN_of_fle_right {a b : F} (h : fle a b = true) : isNaN b = false := by
  simp only [fle, Bool.and_eq_true, Bool.not_eq_true'] at h
  exact h.1.2

/-! ## Absolute value -/

theorem fMag_fabs (x : F) : fMag (fabs x) = fMag x := by
  rw [fMag_eq_and, fMag_eq_and, fabs, BitVec.and_assoc, BitVec.and_self]

theorem fSign_fabs (x : F) : fSign (fabs x) = false := by
  simp [fSign, fabs]

theorem isNaN_fabs (x : F) : isNaN (fabs x) = isNaN x := by simp [isNaN, fMag_fabs]

end Sys2Proof.Machine
end

