-- ==== Sys2Proof/Laws/Memory.lean ====
section
/-! SUPPORT. The output buffer: a byte written is read back, every other byte stays, and the canonical form is kept. -/

namespace Sys2Proof.Machine

theorem Memory.wf_nil : Memory.wf [] := by simp [Memory.wf]

theorem Memory.wf_tail {c : Host.Cell} {m : Memory} (h : Memory.wf (c :: m)) : Memory.wf m :=
  ⟨(List.pairwise_cons.mp h.1).2, fun x hx => h.2 x (List.mem_cons_of_mem _ hx)⟩

/-- An index below every listed one reads as the empty byte. -/
theorem Memory.read_of_lt {m : Memory} {a : Nat} (h : ∀ c ∈ m, a < c.1) : Memory.read m a = emptyByte := by
  induction m with
  | nil => rfl
  | cons c m ih =>
    have hc : a ≠ c.1 := Nat.ne_of_lt (h c List.mem_cons_self)
    rw [Memory.read, if_neg hc]
    exact ih fun x hx => h x (List.mem_cons_of_mem _ hx)

/-- A write leaves every other index alone, whatever the memory's form. -/
theorem Memory.read_write_ne (m : Memory) {a i : Nat} (v : Byte) (h : i ≠ a) :
    Memory.read (Memory.write m a v) i = Memory.read m i := by
  induction m with
  | nil =>
    by_cases hv : v = emptyByte <;> simp [Memory.write, Memory.read, hv, h]
  | cons c m ih =>
    obtain ⟨b, w⟩ := c
    by_cases h1 : a < b
    · by_cases hv : v = emptyByte <;> simp [Memory.write, Memory.read, h1, hv, h]
    · by_cases h2 : a = b
      · subst h2
        by_cases hv : v = emptyByte <;> simp [Memory.write, Memory.read, hv, h]
      · simp only [Memory.write, if_neg h1, if_neg h2, Memory.read, ih]

/-- A byte written to a memory in canonical form is read back. -/
theorem Memory.read_write_same {m : Memory} (hm : Memory.wf m) (a : Nat) (v : Byte) :
    Memory.read (Memory.write m a v) a = v := by
  induction m with
  | nil => by_cases hv : v = emptyByte <;> simp [Memory.write, Memory.read, hv]
  | cons c m ih =>
    obtain ⟨b, w⟩ := c
    have hlt := (List.pairwise_cons.mp hm.1).1
    by_cases h1 : a < b
    · by_cases hv : v = emptyByte
      · have hr : Memory.read ((b, w) :: m) a = emptyByte :=
          Memory.read_of_lt fun c hc => by
            rcases List.mem_cons.mp hc with rfl | hc
            · exact h1
            · exact Nat.lt_trans h1 (hlt c hc)
        subst hv
        rw [Memory.write, if_pos h1, if_pos rfl]
        exact hr
      · simp [Memory.write, Memory.read, h1, hv]
    · by_cases h2 : a = b
      · subst h2
        by_cases hv : v = emptyByte
        · simp only [Memory.write, Nat.lt_irrefl, if_false, if_true, if_pos hv]
          rw [Memory.read_of_lt hlt, hv]
        · simp [Memory.write, Memory.read, hv]
      · simp only [Memory.write, if_neg h1, if_neg h2, Memory.read]
        exact ih (Memory.wf_tail hm)

/-- Every entry of a written memory is the byte written or an entry of the memory before. -/
theorem Memory.mem_write {m : Memory} {a : Nat} {v : Byte} {c : Host.Cell} (h : c ∈ Memory.write m a v) :
    (c = (a, v) ∧ v ≠ emptyByte) ∨ c ∈ m := by
  induction m with
  | nil =>
    by_cases hv : v = emptyByte <;> simp_all [Memory.write]
  | cons d m ih =>
    obtain ⟨b, w⟩ := d
    simp only [Memory.write] at h
    split at h
    · split at h
      · exact .inr h
      · rcases List.mem_cons.mp h with h | h
        · exact .inl ⟨h, ‹_›⟩
        · exact .inr h
    · split at h
      · split at h
        · exact .inr (List.mem_cons_of_mem _ h)
        · rcases List.mem_cons.mp h with h | h
          · exact .inl ⟨h, ‹_›⟩
          · exact .inr (List.mem_cons_of_mem _ h)
      · rcases List.mem_cons.mp h with rfl | h
        · exact .inr List.mem_cons_self
        · rcases ih h with h | h
          · exact .inl h
          · exact .inr (List.mem_cons_of_mem _ h)

/-- A write keeps the canonical form. -/
theorem Memory.wf_write {m : Memory} (hm : Memory.wf m) (a : Nat) (v : Byte) : Memory.wf (Memory.write m a v) := by
  refine ⟨?_, fun c hc => ?_⟩
  · induction m with
    | nil => by_cases hv : v = emptyByte <;> simp [Memory.write, hv]
    | cons d m ih =>
      obtain ⟨b, w⟩ := d
      obtain ⟨hlt, hpw⟩ := List.pairwise_cons.mp hm.1
      simp only [Memory.write]
      split
      · rename_i h1
        split
        · exact hm.1
        · refine List.pairwise_cons.mpr ⟨fun c hc => ?_, hm.1⟩
          rcases List.mem_cons.mp hc with rfl | hc
          · exact h1
          · exact Nat.lt_trans h1 (hlt c hc)
      · split
        · rename_i h2
          split
          · exact hpw
          · exact List.pairwise_cons.mpr ⟨fun c hc => h2 ▸ hlt c hc, hpw⟩
        · refine List.pairwise_cons.mpr ⟨fun c hc => ?_, ih (Memory.wf_tail hm)⟩
          rcases Memory.mem_write hc with ⟨rfl, -⟩ | hc
          · show b < a; omega
          · exact hlt c hc
  · rcases Memory.mem_write hc with ⟨rfl, h⟩ | h
    · exact h
    · exact hm.2 c h

/-- The state's form of the two laws of a stored sample. -/
theorem State.bufByte_writeBuf_ne (s : State) {i a : Nat} (v : Byte) (h : i ≠ a) :
    (s.writeBuf a v).bufByte i = s.bufByte i := Memory.read_write_ne s.buf v h

theorem State.bufByte_writeBuf_same (s : State) (hs : Memory.wf s.buf) (a : Nat) (v : Byte) :
    (s.writeBuf a v).bufByte a = v := Memory.read_write_same hs a v

/-- The buffer after reset is in canonical form. -/
theorem State.reset_buf_wf : Memory.wf State.reset.buf := Memory.wf_nil

end Sys2Proof.Machine
end

