-- ==== Sys2Proof/Laws/State.lean ====
section
/-! SUPPORT. What each named update of the state does to each field. -/

namespace Sys2Proof.Machine

variable (s : State)

@[simp] theorem State.respond_cfg (v : Word) : (s.respond v).cfg = s.cfg := rfl
@[simp] theorem State.respond_patch (v : Word) : (s.respond v).patch = s.patch := rfl
@[simp] theorem State.respond_busy (v : Word) : (s.respond v).busy = s.busy := rfl
@[simp] theorem State.respond_done (v : Word) : (s.respond v).done = s.done := rfl
@[simp] theorem State.respond_errBusy (v : Word) : (s.respond v).errBusy = s.errBusy := rfl
@[simp] theorem State.respond_errAddr (v : Word) : (s.respond v).errAddr = s.errAddr := rfl
@[simp] theorem State.respond_qmode (v : Word) : (s.respond v).qmode = s.qmode := rfl
@[simp] theorem State.respond_duration (v : Word) : (s.respond v).duration = s.duration := rfl
@[simp] theorem State.respond_length (v : Word) : (s.respond v).length = s.length := rfl
@[simp] theorem State.respond_progress (v : Word) : (s.respond v).progress = s.progress := rfl
@[simp] theorem State.respond_doneIe (v : Word) : (s.respond v).doneIe = s.doneIe := rfl
@[simp] theorem State.respond_render (v : Word) : (s.respond v).render = s.render := rfl
@[simp] theorem State.respond_buf (v : Word) : (s.respond v).buf = s.buf := rfl
@[simp] theorem State.respond_dp (v : Word) : (s.respond v).dp = s.dp := rfl
@[simp] theorem State.respond_rdata (v : Word) : (s.respond v).rdata = v := rfl
@[simp] theorem State.respond_agenda (v : Word) : (s.respond v).agenda = s.agenda := rfl

@[simp] theorem State.setDial_cfg (i : Fin 50) (x : F) : (s.setDial i x).cfg = s.cfg := rfl
@[simp] theorem State.setDial_patch (i : Fin 50) (x : F) : (s.setDial i x).patch = { s.patch with dial := s.patch.dial.set i x } := rfl
@[simp] theorem State.setDial_busy (i : Fin 50) (x : F) : (s.setDial i x).busy = s.busy := rfl
@[simp] theorem State.setDial_done (i : Fin 50) (x : F) : (s.setDial i x).done = s.done := rfl
@[simp] theorem State.setDial_errBusy (i : Fin 50) (x : F) : (s.setDial i x).errBusy = s.errBusy := rfl
@[simp] theorem State.setDial_errAddr (i : Fin 50) (x : F) : (s.setDial i x).errAddr = s.errAddr := rfl
@[simp] theorem State.setDial_qmode (i : Fin 50) (x : F) : (s.setDial i x).qmode = s.qmode := rfl
@[simp] theorem State.setDial_duration (i : Fin 50) (x : F) : (s.setDial i x).duration = s.duration := rfl
@[simp] theorem State.setDial_length (i : Fin 50) (x : F) : (s.setDial i x).length = s.length := rfl
@[simp] theorem State.setDial_progress (i : Fin 50) (x : F) : (s.setDial i x).progress = s.progress := rfl
@[simp] theorem State.setDial_doneIe (i : Fin 50) (x : F) : (s.setDial i x).doneIe = s.doneIe := rfl
@[simp] theorem State.setDial_render (i : Fin 50) (x : F) : (s.setDial i x).render = s.render := rfl
@[simp] theorem State.setDial_buf (i : Fin 50) (x : F) : (s.setDial i x).buf = s.buf := rfl
@[simp] theorem State.setDial_dp (i : Fin 50) (x : F) : (s.setDial i x).dp = s.dp := rfl
@[simp] theorem State.setDial_rdata (i : Fin 50) (x : F) : (s.setDial i x).rdata = s.rdata := rfl
@[simp] theorem State.setDial_agenda (i : Fin 50) (x : F) : (s.setDial i x).agenda = s.agenda := rfl

@[simp] theorem State.setSlot_cfg (k : Fin 10) (w : BitVec 6) : (s.setSlot k w).cfg = s.cfg := rfl
@[simp] theorem State.setSlot_patch (k : Fin 10) (w : BitVec 6) : (s.setSlot k w).patch = { s.patch with slot := s.patch.slot.set k w } := rfl
@[simp] theorem State.setSlot_busy (k : Fin 10) (w : BitVec 6) : (s.setSlot k w).busy = s.busy := rfl
@[simp] theorem State.setSlot_done (k : Fin 10) (w : BitVec 6) : (s.setSlot k w).done = s.done := rfl
@[simp] theorem State.setSlot_errBusy (k : Fin 10) (w : BitVec 6) : (s.setSlot k w).errBusy = s.errBusy := rfl
@[simp] theorem State.setSlot_errAddr (k : Fin 10) (w : BitVec 6) : (s.setSlot k w).errAddr = s.errAddr := rfl
@[simp] theorem State.setSlot_qmode (k : Fin 10) (w : BitVec 6) : (s.setSlot k w).qmode = s.qmode := rfl
@[simp] theorem State.setSlot_duration (k : Fin 10) (w : BitVec 6) : (s.setSlot k w).duration = s.duration := rfl
@[simp] theorem State.setSlot_length (k : Fin 10) (w : BitVec 6) : (s.setSlot k w).length = s.length := rfl
@[simp] theorem State.setSlot_progress (k : Fin 10) (w : BitVec 6) : (s.setSlot k w).progress = s.progress := rfl
@[simp] theorem State.setSlot_doneIe (k : Fin 10) (w : BitVec 6) : (s.setSlot k w).doneIe = s.doneIe := rfl
@[simp] theorem State.setSlot_render (k : Fin 10) (w : BitVec 6) : (s.setSlot k w).render = s.render := rfl
@[simp] theorem State.setSlot_buf (k : Fin 10) (w : BitVec 6) : (s.setSlot k w).buf = s.buf := rfl
@[simp] theorem State.setSlot_dp (k : Fin 10) (w : BitVec 6) : (s.setSlot k w).dp = s.dp := rfl
@[simp] theorem State.setSlot_rdata (k : Fin 10) (w : BitVec 6) : (s.setSlot k w).rdata = s.rdata := rfl
@[simp] theorem State.setSlot_agenda (k : Fin 10) (w : BitVec 6) : (s.setSlot k w).agenda = s.agenda := rfl

@[simp] theorem State.setEnv_cfg (k : Fin 466) (x : F) : (s.setEnv k x).cfg = s.cfg := rfl
@[simp] theorem State.setEnv_patch (k : Fin 466) (x : F) : (s.setEnv k x).patch = { s.patch with env := s.patch.env.set k x } := rfl
@[simp] theorem State.setEnv_busy (k : Fin 466) (x : F) : (s.setEnv k x).busy = s.busy := rfl
@[simp] theorem State.setEnv_done (k : Fin 466) (x : F) : (s.setEnv k x).done = s.done := rfl
@[simp] theorem State.setEnv_errBusy (k : Fin 466) (x : F) : (s.setEnv k x).errBusy = s.errBusy := rfl
@[simp] theorem State.setEnv_errAddr (k : Fin 466) (x : F) : (s.setEnv k x).errAddr = s.errAddr := rfl
@[simp] theorem State.setEnv_qmode (k : Fin 466) (x : F) : (s.setEnv k x).qmode = s.qmode := rfl
@[simp] theorem State.setEnv_duration (k : Fin 466) (x : F) : (s.setEnv k x).duration = s.duration := rfl
@[simp] theorem State.setEnv_length (k : Fin 466) (x : F) : (s.setEnv k x).length = s.length := rfl
@[simp] theorem State.setEnv_progress (k : Fin 466) (x : F) : (s.setEnv k x).progress = s.progress := rfl
@[simp] theorem State.setEnv_doneIe (k : Fin 466) (x : F) : (s.setEnv k x).doneIe = s.doneIe := rfl
@[simp] theorem State.setEnv_render (k : Fin 466) (x : F) : (s.setEnv k x).render = s.render := rfl
@[simp] theorem State.setEnv_buf (k : Fin 466) (x : F) : (s.setEnv k x).buf = s.buf := rfl
@[simp] theorem State.setEnv_dp (k : Fin 466) (x : F) : (s.setEnv k x).dp = s.dp := rfl
@[simp] theorem State.setEnv_rdata (k : Fin 466) (x : F) : (s.setEnv k x).rdata = s.rdata := rfl
@[simp] theorem State.setEnv_agenda (k : Fin 466) (x : F) : (s.setEnv k x).agenda = s.agenda := rfl

@[simp] theorem State.setSectionLength_cfg (v : BitVec 6) : (s.setSectionLength v).cfg = s.cfg := rfl
@[simp] theorem State.setSectionLength_patch (v : BitVec 6) : (s.setSectionLength v).patch = { s.patch with sectionLength := v } := rfl
@[simp] theorem State.setSectionLength_busy (v : BitVec 6) : (s.setSectionLength v).busy = s.busy := rfl
@[simp] theorem State.setSectionLength_done (v : BitVec 6) : (s.setSectionLength v).done = s.done := rfl
@[simp] theorem State.setSectionLength_errBusy (v : BitVec 6) : (s.setSectionLength v).errBusy = s.errBusy := rfl
@[simp] theorem State.setSectionLength_errAddr (v : BitVec 6) : (s.setSectionLength v).errAddr = s.errAddr := rfl
@[simp] theorem State.setSectionLength_qmode (v : BitVec 6) : (s.setSectionLength v).qmode = s.qmode := rfl
@[simp] theorem State.setSectionLength_duration (v : BitVec 6) : (s.setSectionLength v).duration = s.duration := rfl
@[simp] theorem State.setSectionLength_length (v : BitVec 6) : (s.setSectionLength v).length = s.length := rfl
@[simp] theorem State.setSectionLength_progress (v : BitVec 6) : (s.setSectionLength v).progress = s.progress := rfl
@[simp] theorem State.setSectionLength_doneIe (v : BitVec 6) : (s.setSectionLength v).doneIe = s.doneIe := rfl
@[simp] theorem State.setSectionLength_render (v : BitVec 6) : (s.setSectionLength v).render = s.render := rfl
@[simp] theorem State.setSectionLength_buf (v : BitVec 6) : (s.setSectionLength v).buf = s.buf := rfl
@[simp] theorem State.setSectionLength_dp (v : BitVec 6) : (s.setSectionLength v).dp = s.dp := rfl
@[simp] theorem State.setSectionLength_rdata (v : BitVec 6) : (s.setSectionLength v).rdata = s.rdata := rfl
@[simp] theorem State.setSectionLength_agenda (v : BitVec 6) : (s.setSectionLength v).agenda = s.agenda := rfl

@[simp] theorem State.setQmode_cfg (b : Bool) : (s.setQmode b).cfg = s.cfg := rfl
@[simp] theorem State.setQmode_patch (b : Bool) : (s.setQmode b).patch = s.patch := rfl
@[simp] theorem State.setQmode_busy (b : Bool) : (s.setQmode b).busy = s.busy := rfl
@[simp] theorem State.setQmode_done (b : Bool) : (s.setQmode b).done = s.done := rfl
@[simp] theorem State.setQmode_errBusy (b : Bool) : (s.setQmode b).errBusy = s.errBusy := rfl
@[simp] theorem State.setQmode_errAddr (b : Bool) : (s.setQmode b).errAddr = s.errAddr := rfl
@[simp] theorem State.setQmode_qmode (b : Bool) : (s.setQmode b).qmode = b := rfl
@[simp] theorem State.setQmode_duration (b : Bool) : (s.setQmode b).duration = s.duration := rfl
@[simp] theorem State.setQmode_length (b : Bool) : (s.setQmode b).length = s.length := rfl
@[simp] theorem State.setQmode_progress (b : Bool) : (s.setQmode b).progress = s.progress := rfl
@[simp] theorem State.setQmode_doneIe (b : Bool) : (s.setQmode b).doneIe = s.doneIe := rfl
@[simp] theorem State.setQmode_render (b : Bool) : (s.setQmode b).render = s.render := rfl
@[simp] theorem State.setQmode_buf (b : Bool) : (s.setQmode b).buf = s.buf := rfl
@[simp] theorem State.setQmode_dp (b : Bool) : (s.setQmode b).dp = s.dp := rfl
@[simp] theorem State.setQmode_rdata (b : Bool) : (s.setQmode b).rdata = s.rdata := rfl
@[simp] theorem State.setQmode_agenda (b : Bool) : (s.setQmode b).agenda = s.agenda := rfl

@[simp] theorem State.setDuration_cfg (v : Word) : (s.setDuration v).cfg = s.cfg := rfl
@[simp] theorem State.setDuration_patch (v : Word) : (s.setDuration v).patch = s.patch := rfl
@[simp] theorem State.setDuration_busy (v : Word) : (s.setDuration v).busy = s.busy := rfl
@[simp] theorem State.setDuration_done (v : Word) : (s.setDuration v).done = s.done := rfl
@[simp] theorem State.setDuration_errBusy (v : Word) : (s.setDuration v).errBusy = s.errBusy := rfl
@[simp] theorem State.setDuration_errAddr (v : Word) : (s.setDuration v).errAddr = s.errAddr := rfl
@[simp] theorem State.setDuration_qmode (v : Word) : (s.setDuration v).qmode = s.qmode := rfl
@[simp] theorem State.setDuration_duration (v : Word) : (s.setDuration v).duration = v := rfl
@[simp] theorem State.setDuration_length (v : Word) : (s.setDuration v).length = s.length := rfl
@[simp] theorem State.setDuration_progress (v : Word) : (s.setDuration v).progress = s.progress := rfl
@[simp] theorem State.setDuration_doneIe (v : Word) : (s.setDuration v).doneIe = s.doneIe := rfl
@[simp] theorem State.setDuration_render (v : Word) : (s.setDuration v).render = s.render := rfl
@[simp] theorem State.setDuration_buf (v : Word) : (s.setDuration v).buf = s.buf := rfl
@[simp] theorem State.setDuration_dp (v : Word) : (s.setDuration v).dp = s.dp := rfl
@[simp] theorem State.setDuration_rdata (v : Word) : (s.setDuration v).rdata = s.rdata := rfl
@[simp] theorem State.setDuration_agenda (v : Word) : (s.setDuration v).agenda = s.agenda := rfl

@[simp] theorem State.setDoneIe_cfg (b : Bool) : (s.setDoneIe b).cfg = s.cfg := rfl
@[simp] theorem State.setDoneIe_patch (b : Bool) : (s.setDoneIe b).patch = s.patch := rfl
@[simp] theorem State.setDoneIe_busy (b : Bool) : (s.setDoneIe b).busy = s.busy := rfl
@[simp] theorem State.setDoneIe_done (b : Bool) : (s.setDoneIe b).done = s.done := rfl
@[simp] theorem State.setDoneIe_errBusy (b : Bool) : (s.setDoneIe b).errBusy = s.errBusy := rfl
@[simp] theorem State.setDoneIe_errAddr (b : Bool) : (s.setDoneIe b).errAddr = s.errAddr := rfl
@[simp] theorem State.setDoneIe_qmode (b : Bool) : (s.setDoneIe b).qmode = s.qmode := rfl
@[simp] theorem State.setDoneIe_duration (b : Bool) : (s.setDoneIe b).duration = s.duration := rfl
@[simp] theorem State.setDoneIe_length (b : Bool) : (s.setDoneIe b).length = s.length := rfl
@[simp] theorem State.setDoneIe_progress (b : Bool) : (s.setDoneIe b).progress = s.progress := rfl
@[simp] theorem State.setDoneIe_doneIe (b : Bool) : (s.setDoneIe b).doneIe = b := rfl
@[simp] theorem State.setDoneIe_render (b : Bool) : (s.setDoneIe b).render = s.render := rfl
@[simp] theorem State.setDoneIe_buf (b : Bool) : (s.setDoneIe b).buf = s.buf := rfl
@[simp] theorem State.setDoneIe_dp (b : Bool) : (s.setDoneIe b).dp = s.dp := rfl
@[simp] theorem State.setDoneIe_rdata (b : Bool) : (s.setDoneIe b).rdata = s.rdata := rfl
@[simp] theorem State.setDoneIe_agenda (b : Bool) : (s.setDoneIe b).agenda = s.agenda := rfl

@[simp] theorem State.setProgress_cfg (v : Word) : (s.setProgress v).cfg = s.cfg := rfl
@[simp] theorem State.setProgress_patch (v : Word) : (s.setProgress v).patch = s.patch := rfl
@[simp] theorem State.setProgress_busy (v : Word) : (s.setProgress v).busy = s.busy := rfl
@[simp] theorem State.setProgress_done (v : Word) : (s.setProgress v).done = s.done := rfl
@[simp] theorem State.setProgress_errBusy (v : Word) : (s.setProgress v).errBusy = s.errBusy := rfl
@[simp] theorem State.setProgress_errAddr (v : Word) : (s.setProgress v).errAddr = s.errAddr := rfl
@[simp] theorem State.setProgress_qmode (v : Word) : (s.setProgress v).qmode = s.qmode := rfl
@[simp] theorem State.setProgress_duration (v : Word) : (s.setProgress v).duration = s.duration := rfl
@[simp] theorem State.setProgress_length (v : Word) : (s.setProgress v).length = s.length := rfl
@[simp] theorem State.setProgress_progress (v : Word) : (s.setProgress v).progress = v := rfl
@[simp] theorem State.setProgress_doneIe (v : Word) : (s.setProgress v).doneIe = s.doneIe := rfl
@[simp] theorem State.setProgress_render (v : Word) : (s.setProgress v).render = s.render := rfl
@[simp] theorem State.setProgress_buf (v : Word) : (s.setProgress v).buf = s.buf := rfl
@[simp] theorem State.setProgress_dp (v : Word) : (s.setProgress v).dp = s.dp := rfl
@[simp] theorem State.setProgress_rdata (v : Word) : (s.setProgress v).rdata = s.rdata := rfl
@[simp] theorem State.setProgress_agenda (v : Word) : (s.setProgress v).agenda = s.agenda := rfl

@[simp] theorem State.setRender_cfg (r : Render) : (s.setRender r).cfg = s.cfg := rfl
@[simp] theorem State.setRender_patch (r : Render) : (s.setRender r).patch = s.patch := rfl
@[simp] theorem State.setRender_busy (r : Render) : (s.setRender r).busy = s.busy := rfl
@[simp] theorem State.setRender_done (r : Render) : (s.setRender r).done = s.done := rfl
@[simp] theorem State.setRender_errBusy (r : Render) : (s.setRender r).errBusy = s.errBusy := rfl
@[simp] theorem State.setRender_errAddr (r : Render) : (s.setRender r).errAddr = s.errAddr := rfl
@[simp] theorem State.setRender_qmode (r : Render) : (s.setRender r).qmode = s.qmode := rfl
@[simp] theorem State.setRender_duration (r : Render) : (s.setRender r).duration = s.duration := rfl
@[simp] theorem State.setRender_length (r : Render) : (s.setRender r).length = s.length := rfl
@[simp] theorem State.setRender_progress (r : Render) : (s.setRender r).progress = s.progress := rfl
@[simp] theorem State.setRender_doneIe (r : Render) : (s.setRender r).doneIe = s.doneIe := rfl
@[simp] theorem State.setRender_render (r : Render) : (s.setRender r).render = r := rfl
@[simp] theorem State.setRender_buf (r : Render) : (s.setRender r).buf = s.buf := rfl
@[simp] theorem State.setRender_dp (r : Render) : (s.setRender r).dp = s.dp := rfl
@[simp] theorem State.setRender_rdata (r : Render) : (s.setRender r).rdata = s.rdata := rfl
@[simp] theorem State.setRender_agenda (r : Render) : (s.setRender r).agenda = s.agenda := rfl

@[simp] theorem State.setDp_cfg (d : Datapath) : (s.setDp d).cfg = s.cfg := rfl
@[simp] theorem State.setDp_patch (d : Datapath) : (s.setDp d).patch = s.patch := rfl
@[simp] theorem State.setDp_busy (d : Datapath) : (s.setDp d).busy = s.busy := rfl
@[simp] theorem State.setDp_done (d : Datapath) : (s.setDp d).done = s.done := rfl
@[simp] theorem State.setDp_errBusy (d : Datapath) : (s.setDp d).errBusy = s.errBusy := rfl
@[simp] theorem State.setDp_errAddr (d : Datapath) : (s.setDp d).errAddr = s.errAddr := rfl
@[simp] theorem State.setDp_qmode (d : Datapath) : (s.setDp d).qmode = s.qmode := rfl
@[simp] theorem State.setDp_duration (d : Datapath) : (s.setDp d).duration = s.duration := rfl
@[simp] theorem State.setDp_length (d : Datapath) : (s.setDp d).length = s.length := rfl
@[simp] theorem State.setDp_progress (d : Datapath) : (s.setDp d).progress = s.progress := rfl
@[simp] theorem State.setDp_doneIe (d : Datapath) : (s.setDp d).doneIe = s.doneIe := rfl
@[simp] theorem State.setDp_render (d : Datapath) : (s.setDp d).render = s.render := rfl
@[simp] theorem State.setDp_buf (d : Datapath) : (s.setDp d).buf = s.buf := rfl
@[simp] theorem State.setDp_dp (d : Datapath) : (s.setDp d).dp = d := rfl
@[simp] theorem State.setDp_rdata (d : Datapath) : (s.setDp d).rdata = s.rdata := rfl
@[simp] theorem State.setDp_agenda (d : Datapath) : (s.setDp d).agenda = s.agenda := rfl

@[simp] theorem State.setAgenda_cfg (l : List Event) : (s.setAgenda l).cfg = s.cfg := rfl
@[simp] theorem State.setAgenda_patch (l : List Event) : (s.setAgenda l).patch = s.patch := rfl
@[simp] theorem State.setAgenda_busy (l : List Event) : (s.setAgenda l).busy = s.busy := rfl
@[simp] theorem State.setAgenda_done (l : List Event) : (s.setAgenda l).done = s.done := rfl
@[simp] theorem State.setAgenda_errBusy (l : List Event) : (s.setAgenda l).errBusy = s.errBusy := rfl
@[simp] theorem State.setAgenda_errAddr (l : List Event) : (s.setAgenda l).errAddr = s.errAddr := rfl
@[simp] theorem State.setAgenda_qmode (l : List Event) : (s.setAgenda l).qmode = s.qmode := rfl
@[simp] theorem State.setAgenda_duration (l : List Event) : (s.setAgenda l).duration = s.duration := rfl
@[simp] theorem State.setAgenda_length (l : List Event) : (s.setAgenda l).length = s.length := rfl
@[simp] theorem State.setAgenda_progress (l : List Event) : (s.setAgenda l).progress = s.progress := rfl
@[simp] theorem State.setAgenda_doneIe (l : List Event) : (s.setAgenda l).doneIe = s.doneIe := rfl
@[simp] theorem State.setAgenda_render (l : List Event) : (s.setAgenda l).render = s.render := rfl
@[simp] theorem State.setAgenda_buf (l : List Event) : (s.setAgenda l).buf = s.buf := rfl
@[simp] theorem State.setAgenda_dp (l : List Event) : (s.setAgenda l).dp = s.dp := rfl
@[simp] theorem State.setAgenda_rdata (l : List Event) : (s.setAgenda l).rdata = s.rdata := rfl
@[simp] theorem State.setAgenda_agenda (l : List Event) : (s.setAgenda l).agenda = l := rfl

@[simp] theorem State.writeBuf_cfg (i : Nat) (v : Byte) : (s.writeBuf i v).cfg = s.cfg := rfl
@[simp] theorem State.writeBuf_patch (i : Nat) (v : Byte) : (s.writeBuf i v).patch = s.patch := rfl
@[simp] theorem State.writeBuf_busy (i : Nat) (v : Byte) : (s.writeBuf i v).busy = s.busy := rfl
@[simp] theorem State.writeBuf_done (i : Nat) (v : Byte) : (s.writeBuf i v).done = s.done := rfl
@[simp] theorem State.writeBuf_errBusy (i : Nat) (v : Byte) : (s.writeBuf i v).errBusy = s.errBusy := rfl
@[simp] theorem State.writeBuf_errAddr (i : Nat) (v : Byte) : (s.writeBuf i v).errAddr = s.errAddr := rfl
@[simp] theorem State.writeBuf_qmode (i : Nat) (v : Byte) : (s.writeBuf i v).qmode = s.qmode := rfl
@[simp] theorem State.writeBuf_duration (i : Nat) (v : Byte) : (s.writeBuf i v).duration = s.duration := rfl
@[simp] theorem State.writeBuf_length (i : Nat) (v : Byte) : (s.writeBuf i v).length = s.length := rfl
@[simp] theorem State.writeBuf_progress (i : Nat) (v : Byte) : (s.writeBuf i v).progress = s.progress := rfl
@[simp] theorem State.writeBuf_doneIe (i : Nat) (v : Byte) : (s.writeBuf i v).doneIe = s.doneIe := rfl
@[simp] theorem State.writeBuf_render (i : Nat) (v : Byte) : (s.writeBuf i v).render = s.render := rfl
@[simp] theorem State.writeBuf_buf (i : Nat) (v : Byte) : (s.writeBuf i v).buf = Memory.write s.buf i v := rfl
@[simp] theorem State.writeBuf_dp (i : Nat) (v : Byte) : (s.writeBuf i v).dp = s.dp := rfl
@[simp] theorem State.writeBuf_rdata (i : Nat) (v : Byte) : (s.writeBuf i v).rdata = s.rdata := rfl
@[simp] theorem State.writeBuf_agenda (i : Nat) (v : Byte) : (s.writeBuf i v).agenda = s.agenda := rfl

@[simp] theorem State.setErrAddr_cfg : (s.setErrAddr).cfg = s.cfg := rfl
@[simp] theorem State.setErrAddr_patch : (s.setErrAddr).patch = s.patch := rfl
@[simp] theorem State.setErrAddr_busy : (s.setErrAddr).busy = s.busy := rfl
@[simp] theorem State.setErrAddr_done : (s.setErrAddr).done = s.done := rfl
@[simp] theorem State.setErrAddr_errBusy : (s.setErrAddr).errBusy = s.errBusy := rfl
@[simp] theorem State.setErrAddr_errAddr : (s.setErrAddr).errAddr = true := rfl
@[simp] theorem State.setErrAddr_qmode : (s.setErrAddr).qmode = s.qmode := rfl
@[simp] theorem State.setErrAddr_duration : (s.setErrAddr).duration = s.duration := rfl
@[simp] theorem State.setErrAddr_length : (s.setErrAddr).length = s.length := rfl
@[simp] theorem State.setErrAddr_progress : (s.setErrAddr).progress = s.progress := rfl
@[simp] theorem State.setErrAddr_doneIe : (s.setErrAddr).doneIe = s.doneIe := rfl
@[simp] theorem State.setErrAddr_render : (s.setErrAddr).render = s.render := rfl
@[simp] theorem State.setErrAddr_buf : (s.setErrAddr).buf = s.buf := rfl
@[simp] theorem State.setErrAddr_dp : (s.setErrAddr).dp = s.dp := rfl
@[simp] theorem State.setErrAddr_rdata : (s.setErrAddr).rdata = s.rdata := rfl
@[simp] theorem State.setErrAddr_agenda : (s.setErrAddr).agenda = s.agenda := rfl

@[simp] theorem State.setErrBusy_cfg : (s.setErrBusy).cfg = s.cfg := rfl
@[simp] theorem State.setErrBusy_patch : (s.setErrBusy).patch = s.patch := rfl
@[simp] theorem State.setErrBusy_busy : (s.setErrBusy).busy = s.busy := rfl
@[simp] theorem State.setErrBusy_done : (s.setErrBusy).done = s.done := rfl
@[simp] theorem State.setErrBusy_errBusy : (s.setErrBusy).errBusy = true := rfl
@[simp] theorem State.setErrBusy_errAddr : (s.setErrBusy).errAddr = s.errAddr := rfl
@[simp] theorem State.setErrBusy_qmode : (s.setErrBusy).qmode = s.qmode := rfl
@[simp] theorem State.setErrBusy_duration : (s.setErrBusy).duration = s.duration := rfl
@[simp] theorem State.setErrBusy_length : (s.setErrBusy).length = s.length := rfl
@[simp] theorem State.setErrBusy_progress : (s.setErrBusy).progress = s.progress := rfl
@[simp] theorem State.setErrBusy_doneIe : (s.setErrBusy).doneIe = s.doneIe := rfl
@[simp] theorem State.setErrBusy_render : (s.setErrBusy).render = s.render := rfl
@[simp] theorem State.setErrBusy_buf : (s.setErrBusy).buf = s.buf := rfl
@[simp] theorem State.setErrBusy_dp : (s.setErrBusy).dp = s.dp := rfl
@[simp] theorem State.setErrBusy_rdata : (s.setErrBusy).rdata = s.rdata := rfl
@[simp] theorem State.setErrBusy_agenda : (s.setErrBusy).agenda = s.agenda := rfl

@[simp] theorem State.clearStatus_cfg (v : Word) : (s.clearStatus v).cfg = s.cfg := rfl
@[simp] theorem State.clearStatus_patch (v : Word) : (s.clearStatus v).patch = s.patch := rfl
@[simp] theorem State.clearStatus_busy (v : Word) : (s.clearStatus v).busy = s.busy := rfl
@[simp] theorem State.clearStatus_done (v : Word) : (s.clearStatus v).done = (s.done && !v.getLsbD 1) := rfl
@[simp] theorem State.clearStatus_errBusy (v : Word) : (s.clearStatus v).errBusy = (s.errBusy && !v.getLsbD 2) := rfl
@[simp] theorem State.clearStatus_errAddr (v : Word) : (s.clearStatus v).errAddr = (s.errAddr && !v.getLsbD 3) := rfl
@[simp] theorem State.clearStatus_qmode (v : Word) : (s.clearStatus v).qmode = s.qmode := rfl
@[simp] theorem State.clearStatus_duration (v : Word) : (s.clearStatus v).duration = s.duration := rfl
@[simp] theorem State.clearStatus_length (v : Word) : (s.clearStatus v).length = s.length := rfl
@[simp] theorem State.clearStatus_progress (v : Word) : (s.clearStatus v).progress = s.progress := rfl
@[simp] theorem State.clearStatus_doneIe (v : Word) : (s.clearStatus v).doneIe = s.doneIe := rfl
@[simp] theorem State.clearStatus_render (v : Word) : (s.clearStatus v).render = s.render := rfl
@[simp] theorem State.clearStatus_buf (v : Word) : (s.clearStatus v).buf = s.buf := rfl
@[simp] theorem State.clearStatus_dp (v : Word) : (s.clearStatus v).dp = s.dp := rfl
@[simp] theorem State.clearStatus_rdata (v : Word) : (s.clearStatus v).rdata = s.rdata := rfl
@[simp] theorem State.clearStatus_agenda (v : Word) : (s.clearStatus v).agenda = s.agenda := rfl

@[simp] theorem State.complete_cfg : (s.complete).cfg = s.cfg := rfl
@[simp] theorem State.complete_patch : (s.complete).patch = s.patch := rfl
@[simp] theorem State.complete_busy : (s.complete).busy = false := rfl
@[simp] theorem State.complete_done : (s.complete).done = true := rfl
@[simp] theorem State.complete_errBusy : (s.complete).errBusy = s.errBusy := rfl
@[simp] theorem State.complete_errAddr : (s.complete).errAddr = s.errAddr := rfl
@[simp] theorem State.complete_qmode : (s.complete).qmode = s.qmode := rfl
@[simp] theorem State.complete_duration : (s.complete).duration = s.duration := rfl
@[simp] theorem State.complete_length : (s.complete).length = s.length := rfl
@[simp] theorem State.complete_progress : (s.complete).progress = s.progress := rfl
@[simp] theorem State.complete_doneIe : (s.complete).doneIe = s.doneIe := rfl
@[simp] theorem State.complete_render : (s.complete).render = s.render := rfl
@[simp] theorem State.complete_buf : (s.complete).buf = s.buf := rfl
@[simp] theorem State.complete_dp : (s.complete).dp = s.dp := rfl
@[simp] theorem State.complete_rdata : (s.complete).rdata = s.rdata := rfl
@[simp] theorem State.complete_agenda : (s.complete).agenda = s.agenda := rfl

@[simp] theorem State.setPhase_eq (n : Fin 8) (p : Word) : s.setPhase n p = s.setRender { s.render with phase := s.render.phase.set n p } := rfl
@[simp] theorem State.setBq_eq (j : Fin 3) (h : Biquad) : s.setBq j h = s.setRender { s.render with bq := s.render.bq.set j h } := rfl
@[simp] theorem State.setO_eq (n : Fin 8) (x : F) : s.setO n x = s.setDp { s.dp with o := s.dp.o.set n x } := rfl
@[simp] theorem State.returnY_eq (y : F) : s.returnY y = s.setDp { s.dp with y := y } := rfl
@[simp] theorem State.returnV_eq (v : F) : s.returnV v = s.setDp { s.dp with v := v } := rfl
@[simp] theorem State.returnE_eq (e : F) : s.returnE e = s.setDp { s.dp with e := e } := rfl
@[simp] theorem State.returnQ_eq (q : Byte) : s.returnQ q = s.setDp { s.dp with q := q } := rfl

/-! Updates of one field twice, and what an update of the named fields leaves. -/

@[simp] theorem State.setDp_setDp (d e : Datapath) : (s.setDp d).setDp e = s.setDp e := rfl
@[simp] theorem State.setRender_setRender (r q : Render) : (s.setRender r).setRender q = s.setRender q := rfl
@[simp] theorem State.setDp_self : s.setDp s.dp = s := rfl
@[simp] theorem State.setRender_self : s.setRender s.render = s := rfl
@[simp] theorem State.setAgenda_self : s.setAgenda s.agenda = s := rfl

/-- The states that agree but for the working set and the render state are exactly those these two updates reach. -/
theorem State.eq_setRender_setDp (t : State) (h : t = { s with render := t.render, dp := t.dp }) :
    t = (s.setRender t.render).setDp t.dp := h

end Sys2Proof.Machine
end

