-- ==== Sys2Proof/Laws/Ops.lean ====
section
/-! SUPPORT. For each shared operation, once, everything it can do. -/

namespace Sys2Proof.Machine

/-! ## The busy check and the returns -/

theorem State.busyChecked_of_busy {s : State} (h : s.busy = true) (f : State → State) :
    s.busyChecked f = s.setErrBusy := by simp [State.busyChecked, h]

theorem State.busyChecked_of_idle {s : State} (h : s.busy = false) (f : State → State) :
    s.busyChecked f = f s := by simp [State.busyChecked, h]

theorem State.setDp_setRender (s : State) (d : Datapath) (r : Render) :
    (s.setDp d).setRender r = (s.setRender r).setDp d := rfl

/-! ## The harmonic count -/

theorem isInf_cases {r : F} (h : isInf r = true) : r = 0x7F800000#32 ∨ r = 0xFF800000#32 := by
  have hm : fMag r = infMag := by simpa [isInf] using h
  have hr := withSign_fMag r
  rw [hm] at hr
  cases hs : fSign r <;> rw [hs] at hr
  · exact .inl hr.symm
  · exact .inr hr.symm

/-- The finite values at which a function that never decreases has reached `n` are those from one value on. -/
theorem exists_rise (h : F → Nat) (hm : ∀ a b, isFinite a = true → isFinite b = true → fle a b = true → h a ≤ h b) (n : Nat) :
    ∃ x : F, ∀ r, isFinite r = true → (fge r x = true ↔ n ≤ h r) := by
  by_cases hex : ∃ r, isFinite r = true ∧ n ≤ h r
  · obtain ⟨x, ⟨hx, hnx⟩, hmin⟩ :=
      (measure fun r : F => (fKey r + 2 ^ 31).toNat).wf.has_min {r | isFinite r = true ∧ n ≤ h r} hex
    have key : ∀ r : F, 0 ≤ fKey r + 2 ^ 31 := fun r => by
      have := fMag_lt r
      unfold fKey
      split <;> omega
    refine ⟨x, fun r hr => ⟨fun hge => hnx.trans (hm x r hx hr hge), fun hnr => ?_⟩⟩
    have hnot : ¬(fKey r + 2 ^ 31).toNat < (fKey x + 2 ^ 31).toNat := hmin r ⟨hr, hnr⟩
    have h1 := key r
    have h2 := key x
    simp only [fge, fle, isNaN_of_isFinite hx, isNaN_of_isFinite hr, Bool.not_false, Bool.true_and, decide_eq_true_eq]
    omega
  · refine ⟨0x7F800000#32, fun r hr => ⟨fun hge => ?_, fun hnr => absurd ⟨r, hr, hnr⟩ hex⟩⟩
    have hlt : fMag r < infMag := by simpa [isFinite] using hr
    have hinf : fKey 0x7F800000#32 = infMag := by decide
    simp only [fge, fle, Bool.and_eq_true, decide_eq_true_eq, hinf] at hge
    have := hge.2
    unfold fKey at this
    split at this <;> omega

theorem countP_range_le (m k : Nat) : (List.range m).countP (fun i => decide (i < k)) = min m k := by
  induction m with
  | zero => simp
  | succ m ih =>
    rw [List.range_succ, List.countP_append, ih, List.countP_singleton]
    by_cases hk : m < k <;> simp [hk] <;> omega

/-- The steps lose no function that R107 admits: every function to 1 .. `hmax` that never decreases over the finite values and
does not look into the payload of a NaN is one of them (log entry 5). -/
theorem exists_harmonicSteps (hmax : Nat) (h : F → Nat) (hr : ∀ r, 1 ≤ h r ∧ h r ≤ hmax)
    (hm : ∀ a b, isFinite a = true → isFinite b = true → fle a b = true → h a ≤ h b)
    (hn : ∀ a b, isNaN a = true → isNaN b = true → h a = h b) :
    ∃ t : HarmonicSteps, harmonicStepsOk hmax t ∧ ∀ r, stepHarmonicCount t r = h r := by
  choose x hx using exists_rise h hm
  refine ⟨⟨(List.range (hmax - 1)).map fun i => x (i + 2), h 0x7FC00000#32, h 0x7F800000#32, h 0xFF800000#32⟩,
    ⟨?_, hr _, hr _, hr _⟩, fun r => ?_⟩
  · have := hr 0#32
    simp only [List.length_map, List.length_range]
    omega
  · unfold stepHarmonicCount
    rcases class_cases r with ⟨h1, -, -⟩ | ⟨h1, h2, -⟩ | ⟨h1, h2, h3⟩
    · simp only [h1, if_true]
      exact hn _ _ (by decide) h1
    · rcases isInf_cases h2 with rfl | rfl <;> rfl
    · have hc : ∀ i ∈ List.range (hmax - 1), fge r (x (i + 2)) = decide (i < h r - 1) := fun i _ => by
        rw [Bool.eq_iff_iff, hx _ r h3, decide_eq_true_eq]
        omega
      simp only [h1, h2, Bool.false_eq_true, if_false, List.countP_map, Function.comp_def]
      rw [List.countP_congr fun i hi => by rw [hc i hi], countP_range_le]
      have := hr r
      omega

/-! ## The router -/

/-- The FM operation of a slot changes working parameters only. -/
theorem State.applyFm_eq (s : State) (k : Fin 10) :
    ∃ f r t : F, s.applyFm k = s.setDp { s.dp with f := f, r := r, t := t } := by
  unfold State.applyFm
  dsimp only
  split
  · exact ⟨s.dp.f, s.dp.r, s.dp.t, rfl⟩
  · split
    · exact ⟨_, s.dp.r, s.dp.t, rfl⟩
    · split
      · exact ⟨s.dp.f, s.dp.r, _, rfl⟩
      · exact ⟨s.dp.f, _, s.dp.t, rfl⟩

/-- The AM operation of a slot changes working parameters only. -/
theorem State.applyAm_eq (s : State) (k : Fin 10) :
    ∃ a r t : F, s.applyAm k = s.setDp { s.dp with a := a, r := r, t := t } := by
  unfold State.applyAm
  dsimp only
  split
  · exact ⟨s.dp.a, s.dp.r, s.dp.t, rfl⟩
  · split
    · exact ⟨_, s.dp.r, s.dp.t, rfl⟩
    · split
      · exact ⟨s.dp.a, _, s.dp.t, rfl⟩
      · exact ⟨s.dp.a, s.dp.r, _, rfl⟩

/-- The combine operation of a slot changes the target's sample only. -/
theorem State.applyMul_eq (s : State) (k : Fin 10) :
    ∃ g : F, s.applyMul k = s.setDp { s.dp with g := g } := by
  unfold State.applyMul
  dsimp only
  split
  · exact ⟨s.dp.g, rfl⟩
  · split
    · exact ⟨_, rfl⟩
    · split
      · exact ⟨_, rfl⟩
      · exact ⟨_, rfl⟩

/-- The modulations change working parameters only. -/
theorem State.modulate_eq (ks : List (Fin 10)) (s : State) :
    ∃ f a r t : F, s.modulate ks = s.setDp { s.dp with f := f, a := a, r := r, t := t } := by
  induction ks generalizing s with
  | nil => exact ⟨s.dp.f, s.dp.a, s.dp.r, s.dp.t, rfl⟩
  | cons k ks ih =>
    obtain ⟨f, r, t, h⟩ := s.applyFm_eq k
    obtain ⟨a, r', t', h'⟩ := (s.applyFm k).applyAm_eq k
    obtain ⟨f'', a'', r'', t'', h''⟩ := ih ((s.applyFm k).applyAm k)
    refine ⟨f'', a'', r'', t'', ?_⟩
    rw [State.modulate, List.foldl_cons]
    rw [State.modulate] at h''
    rw [h'', h', h]
    rfl

/-- The combine operations change the target's sample only. -/
theorem State.combine_eq (ks : List (Fin 10)) (s : State) :
    ∃ g : F, s.combine ks = s.setDp { s.dp with g := g } := by
  induction ks generalizing s with
  | nil => exact ⟨s.dp.g, rfl⟩
  | cons k ks ih =>
    obtain ⟨g, h⟩ := s.applyMul_eq k
    obtain ⟨g', h'⟩ := ih (s.applyMul k)
    refine ⟨g', ?_⟩
    rw [State.combine, List.foldl_cons]
    rw [State.combine] at h'
    rw [h', h]
    rfl

/-- The base parameters are working parameters. -/
theorem State.loadBase_eq (s : State) (n : Fin 8) :
    ∃ f a r t : F, s.loadBase n = s.setDp { s.dp with f := f, a := a, r := r, t := t } := ⟨_, _, _, _, rfl⟩

/-- The generation changes the generator's value and the target's sample. -/
theorem State.generate_eq (s : State) (n : Fin 8) :
    ∃ y g : F, s.generate n = s.setDp { s.dp with y := y, g := g } := ⟨_, _, rfl⟩

/-- A phase advance changes the phase of its oscillator. -/
theorem State.phaseAdvance_eq (s : State) (n : Fin 8) (f : F) : ∃ p : Word, s.phaseAdvance n f = s.setPhase n p := ⟨_, rfl⟩

/-- An oscillator's evaluation changes its phase, its output and the working set. -/
theorem State.oscEval_eq (s : State) (n : Fin 8) :
    ∃ (p : Word) (d : Datapath) (g : F), d.o = s.dp.o.set n g ∧
      s.oscEval n = (s.setRender { s.render with phase := s.render.phase.set n p }).setDp d := by
  unfold State.oscEval
  dsimp only
  obtain ⟨_, _, _, _, h1⟩ := s.loadBase_eq n
  rw [h1]
  obtain ⟨_, _, _, _, h2⟩ := State.modulate_eq (slotInputs n) (s.setDp { s.dp with f := _, a := _, r := _, t := _ })
  rw [h2]
  simp only [State.setDp_setDp, State.setDp_dp]
  obtain ⟨_, _, h3⟩ := State.generate_eq (s.setDp { s.dp with f := _, a := _, r := _, t := _ }) n
  rw [h3]
  simp only [State.setDp_setDp, State.setDp_dp]
  obtain ⟨g, h4⟩ := State.combine_eq (slotInputs n) (s.setDp { s.dp with f := _, a := _, r := _, t := _, y := _, g := _ })
  rw [h4]
  simp only [State.setDp_setDp, State.setDp_dp]
  obtain ⟨p, h5⟩ := State.phaseAdvance_eq (s.setDp { s.dp with f := _, a := _, r := _, t := _, y := _, g := _ }) n _
  rw [h5]
  simp only [State.setPhase_eq, State.setO_eq, State.setDp_setDp, State.setDp_setRender, State.setDp_dp, State.setDp_render]
  exact ⟨p, _, g, rfl, rfl⟩

/-- The oscillators change the phases and the working set. -/
theorem State.oscillators_eq (s : State) :
    ∃ (ph : Vector Word 8) (d : Datapath),
      s.oscillators = (s.setRender { s.render with phase := ph }).setDp d := by
  have h : ∀ (l : List (Fin 8)) (s : State), ∃ (ph : Vector Word 8) (d : Datapath),
      l.foldl (fun s n => s.oscEval n) s = (s.setRender { s.render with phase := ph }).setDp d := by
    intro l
    induction l with
    | nil => intro s; exact ⟨s.render.phase, s.dp, rfl⟩
    | cons n l ih =>
      intro s
      obtain ⟨p, d, g, -, h⟩ := s.oscEval_eq n
      obtain ⟨ph, d', h'⟩ := ih (s.oscEval n)
      refine ⟨ph, d', ?_⟩
      rw [List.foldl_cons, h', h]
      simp only [State.setDp_setDp, State.setDp_setRender, State.setRender_setRender, State.setDp_render,
        State.setRender_render]
  exact h evalOrder s

/-! ## The filter -/

/-- A section changes its own history and the sample; bypassed, the history stays. -/
theorem State.bqSection_eq (s : State) (j : Fin 3) :
    ∃ (h : Biquad) (v : F), (s.bypassed j = true → h = s.render.bq[j] ∧ v = s.dp.v) ∧
      s.bqSection j = (s.setRender { s.render with bq := s.render.bq.set j h }).setDp { s.dp with v := v } := by
  unfold State.bqSection
  split
  · refine ⟨s.render.bq[j], s.dp.v, fun _ => ⟨rfl, rfl⟩, ?_⟩
    have : s.render.bq.set j s.render.bq[j] = s.render.bq := by simp
    rw [this]
    rfl
  · rename_i hb
    exact ⟨_, _, fun h => absurd h hb, rfl⟩

/-- Whether a section is bypassed depends on the patch and the configuration only (R161). -/
theorem State.bypassed_congr {s t : State} (hp : s.patch = t.patch) (hc : s.cfg = t.cfg) (j : Fin 3) :
    s.bypassed j = t.bypassed j := by
  simp only [State.bypassed, State.coeff, State.phys, hp, hc]

/-- The cascade changes filter histories and the sample. -/
theorem State.bqCascade_eq (s : State) (x : F) :
    ∃ (bq : Vector Biquad 3) (v : F),
      s.bqCascade x = (s.setRender { s.render with bq := bq }).setDp { s.dp with v := v } := by
  unfold State.bqCascade
  rw [State.returnV_eq]
  obtain ⟨h0, v0, -, e0⟩ := State.bqSection_eq (s.setDp { s.dp with v := x }) 0
  rw [e0]
  simp only [State.setDp_setDp, State.setDp_setRender, State.setDp_render, State.setDp_dp]
  obtain ⟨h1, v1, -, e1⟩ := State.bqSection_eq ((s.setRender { s.render with bq := _ }).setDp { s.dp with v := v0 }) 1
  rw [e1]
  simp only [State.setDp_setDp, State.setDp_setRender, State.setRender_setRender, State.setDp_render, State.setRender_render,
    State.setDp_dp]
  obtain ⟨h2, v2, -, e2⟩ := State.bqSection_eq ((s.setRender { s.render with bq := _ }).setDp { s.dp with v := v1 }) 2
  rw [e2]
  simp only [State.setDp_setDp, State.setDp_setRender, State.setRender_setRender, State.setDp_render, State.setRender_render,
    State.setDp_dp]
  exact ⟨_, v2, rfl⟩

/-! ## The post stages -/

/-- The crush changes its counter and held value, and the sample. -/
theorem State.crush_eq (s : State) :
    ∃ (cnt : Nat) (val v : F),
      (s.render.cl = 0 → cnt = s.render.cnt) ∧ (0 < s.render.cl → cnt < s.render.cl) ∧
        s.crush = (s.setRender { s.render with cnt := cnt, val := val }).setDp { s.dp with v := v } := by
  unfold State.crush
  split
  · rename_i h
    have h' : 0 < s.render.cl := of_decide_eq_true h
    refine ⟨(s.render.cnt + 1) % s.render.cl, if s.render.cnt = 0 then s.dp.v else s.render.val,
      if s.render.cnt = 0 then s.dp.v else s.render.val, fun h0 => absurd h0 (Nat.pos_iff_ne_zero.mp h'), fun _ => Nat.mod_lt _ h', ?_⟩
    rw [State.crushHold, if_neg (Nat.pos_iff_ne_zero.mp h')]
    rfl
  · rename_i h
    refine ⟨s.render.cnt, s.render.val, s.dp.v, fun _ => rfl, fun h' => absurd (decide_eq_true h') h, rfl⟩

/-- The envelope value is all that is changed by taking it. -/
theorem State.envValue_eq (s : State) : ∃ e : F, s.envValue = s.setDp { s.dp with e := e } := by
  unfold State.envValue
  split
  · exact ⟨_, rfl⟩
  · unfold State.envInterp
    split
    · exact ⟨_, rfl⟩
    · exact ⟨s.dp.e, rfl⟩

/-- The envelope cursor after an advance stays in its range (R38, R180). -/
theorem State.envAdvance_eq (s : State) :
    ∃ seg step : Nat, s.envAdvance = s.setRender { s.render with seg := seg, step := step } ∧
      (s.render.seg ≤ 465 → seg ≤ 465) ∧ (s.render.step < s.render.sps → step < s.render.sps) := by
  unfold State.envAdvance
  split
  · refine ⟨_, 0, rfl, ?_, ?_⟩
    · intro h
      show (if s.render.seg < 465 then s.render.seg + 1 else s.render.seg) ≤ 465
      by_cases hs : s.render.seg < 465
      · rw [if_pos hs]; exact hs
      · rw [if_neg hs]; exact h
    · omega
  · refine ⟨s.render.seg, _, rfl, id, ?_⟩
    omega

/-- The stages after the oscillators change the filter histories, the crush state, the envelope cursor and the working
set. -/
theorem State.postStages_eq (s : State) :
    ∃ (bq : Vector Biquad 3) (seg step cnt : Nat) (val : F) (d : Datapath),
      s.postStages = (s.setRender { s.render with bq := bq, seg := seg, step := step, cnt := cnt, val := val }).setDp d ∧
      (s.render.seg ≤ 465 → seg ≤ 465) ∧ (s.render.step < s.render.sps → step < s.render.sps) ∧
      (s.render.cl = 0 → cnt = s.render.cnt) ∧ (0 < s.render.cl → cnt < s.render.cl) := by
  unfold State.postStages
  dsimp only
  obtain ⟨bq, v, e1⟩ := s.bqCascade_eq s.dp.o[0]
  rw [e1]
  obtain ⟨cnt, val, w, hc0, hc1, e2⟩ := State.crush_eq ((s.setRender { s.render with bq := bq }).setDp { s.dp with v := v })
  rw [e2]
  simp only [State.setDp_setDp, State.setDp_setRender, State.setRender_setRender, State.setDp_render, State.setRender_render,
    State.setDp_dp] at hc0 hc1 ⊢
  obtain ⟨e, e3⟩ := State.envValue_eq
    ((s.setRender { s.render with bq := bq, cnt := cnt, val := val }).setDp { s.dp with v := w })
  rw [e3]
  simp only [State.setDp_setDp, State.setDp_dp]
  obtain ⟨seg, step, e4, hseg, hstep⟩ := State.envAdvance_eq
    ((s.setRender { s.render with bq := bq, cnt := cnt, val := val }).setDp { s.dp with v := w, e := e })
  rw [e4]
  simp only [State.postScaled, State.quantize, State.returnQ_eq, State.setDp_setDp, State.setDp_setRender,
    State.setRender_setRender, State.setDp_render, State.setRender_render, State.setDp_dp] at hseg hstep ⊢
  exact ⟨bq, seg, step, cnt, val, _, rfl, hseg, hstep, hc0, hc1⟩

/-! ## The sample step -/

/-- Idle, a sample step does nothing (R228). -/
theorem State.sampleStep_of_idle {s : State} (h : s.busy = false) : s.sampleStep = s := by
  simp [State.sampleStep, h]

/-- Everything a sample step of a running render can do (R228, R229). -/
theorem State.sampleStep_of_busy {s : State} (hb : s.busy = true) :
    ∃ (ph : Vector Word 8) (bq : Vector Biquad 3) (seg step cnt : Nat) (val : F) (q : Byte),
      s.sampleStep = { s with
        render := { s.render with phase := ph, bq := bq, seg := seg, step := step, cnt := cnt, val := val }
        buf := Memory.write s.buf s.progress.toNat q
        progress := s.progress + 1#32
        busy := decide (s.progress + 1#32 ≠ s.length)
        done := s.done || decide (s.progress + 1#32 = s.length)
        dp := Datapath.rest } ∧
      (s.render.seg ≤ 465 → seg ≤ 465) ∧ (s.render.step < s.render.sps → step < s.render.sps) ∧
      (s.render.cl = 0 → cnt = s.render.cnt) ∧ (0 < s.render.cl → cnt < s.render.cl) := by
  obtain ⟨ph, d, h1⟩ := s.oscillators_eq
  obtain ⟨bq, seg, step, cnt, val, d', h2, hseg, hstep, hc0, hc1⟩ :=
    State.postStages_eq ((s.setRender { s.render with phase := ph }).setDp d)
  rw [State.sampleStep, if_pos hb, h1, h2]
  simp only [State.setDp_setDp, State.setDp_setRender, State.setRender_setRender, State.setDp_render, State.setRender_render]
    at hseg hstep hc0 hc1 ⊢
  refine ⟨ph, bq, seg, step, cnt, val, d'.q, ?_, hseg, hstep, hc0, hc1⟩
  rw [State.storeSample]
  split
  · rename_i h
    have h' : s.progress + 1#32 = s.length := h
    have h1 : decide (s.progress + 1#32 ≠ s.length) = false := decide_eq_false (not_not.mpr h')
    rw [h1, decide_eq_true h', Bool.or_true]
    rfl
  · rename_i h
    have h' : ¬s.progress + 1#32 = s.length := h
    have h1 : decide (s.progress + 1#32 ≠ s.length) = s.busy := (decide_eq_true h').trans hb.symm
    rw [h1, decide_eq_false h', Bool.or_false]
    rfl

/-! ## The render start -/

theorem clampInt_bounds (x : Int) {hi : Int} (h : 0 ≤ hi) : 0 ≤ clampInt x 0 hi ∧ clampInt x 0 hi ≤ hi := by
  unfold clampInt
  omega

/-- The start segment is an index of a breakpoint (R177). -/
theorem State.startSegment_le (s : State) : s.startSegment ≤ 465 := by
  have := clampInt_bounds (floorF (fmul s.patch.dial[47] f466)) (hi := 465) (by decide)
  unfold State.startSegment
  omega

/-- The crush length is at most 33 (R181). -/
theorem State.crushLength_le (s : State) : s.crushLength ≤ 33 := by
  have := clampInt_bounds (floorF (fmul s.patch.dial[49] f33)) (hi := 33) (by decide)
  unfold State.crushLength
  omega

/-- The sample count is clamped to the clip capacity (R227). -/
theorem State.totalSamples_le (s : State) : s.totalSamples ≤ s.cfg.maxClip := Nat.min_le_right _ _

/-- A segment has at least one sample, and at most as many as the render when it has any (R176). -/
theorem samplesPerSegment_bounds (n : Nat) : 1 ≤ samplesPerSegment n ∧ samplesPerSegment n ≤ max 1 n := by
  unfold samplesPerSegment Config.nEnv
  omega

/-! ## The clamps of the patch writes -/

/-- A write to a range below 1.0 stores a value of the range (R22, R24). -/
theorem clampWrite_bounds {lo : F} (h0 : fle lo fZero = true) (x : F) :
    fle lo (clampWrite lo x) = true ∧ fle (clampWrite lo x) fOne = true := by
  have h1 : fle fZero fOne = true := by decide
  have hlo := isNaN_of_fle_left h0
  unfold clampWrite
  split
  · exact ⟨h0, h1⟩
  · rename_i hx
    have hx' : isNaN x = false := by simpa using hx
    split
    · exact ⟨fle_refl hlo, fle_trans h0 h1⟩
    · rename_i hl
      split
      · exact ⟨fle_trans h0 h1, by decide⟩
      · rename_i hh
        rw [fle_iff_not_flt hlo hx', fle_iff_not_flt hx' (by decide)]
        simp only [fgt] at hh
        simp [hl, hh]

theorem dialLow_le (p : Polarity) : fle (dialLow p) fZero = true := by cases p <;> decide

/-- The section length wraps into 1 .. 33 (R219). -/
theorem wrapSection_toNat (v : Word) : ((wrapSection v).toNat : Int) = (v.toInt - 1) % 33 + 1 := by
  unfold wrapSection
  rw [BitVec.toNat_ofInt]
  omega

end Sys2Proof.Machine
end

