-- ==== Sys2Proof/Laws/PerInstr.lean ====
section
/-! SUPPORT. The encoder against spec/opcode_table.json: the word of every encoding has the fixed bits of its row. -/

namespace Sys2Proof.Laws.TableRow

/-- The word a selection is encoded in: the descriptor, the slot word, the band code or the mode bit. -/
def selectionWord : Code → Nat
  | .bus T _ => T.toNat
  | .fm _ w => w.toNat
  | .am _ w => w.toNat
  | .mul _ w => w.toNat
  | .band b _ _ _ => b.toNat
  | .byp b _ _ => b.toNat
  | .crush b _ => b.toNat
  | .env b => b.toNat
  | .quant b _ => b.toNat

/-- The row's mask and match. BAD_ACCESS is matched by the reserved SIZE only; its other causes are in the row's note
(R93). -/
def maskMatch : Instr → Nat × Nat
  | .rdReg _ => (0x1E00003, 0x0800000)
  | .rdBuf8 _ => (0x1E00000, 0x0200000)
  | .rdBuf16 _ => (0x1E00001, 0x0600000)
  | .rdBuf32 _ => (0x1E00003, 0x0A00000)
  | .wrId _ => (0x1FFFFFF, 0x1800000)
  | .wrCtrl _ => (0x1FFFFFF, 0x1800004)
  | .wrStatus _ => (0x1FFFFFF, 0x1800008)
  | .wrConfig _ => (0x1FFFFFF, 0x180000C)
  | .wrDuration _ => (0x1FFFFFF, 0x1800010)
  | .wrLength _ => (0x1FFFFFF, 0x1800014)
  | .wrProgress _ => (0x1FFFFFF, 0x1800018)
  | .wrIrqEn _ => (0x1FFFFFF, 0x180001C)
  | .wrSectionLength _ => (0x1FFFFFF, 0x1800240)
  | .wrDial _ _ => (0x1FFFF03, 0x1800100)
  | .wrSlot _ _ => (0x1FFFFC3, 0x1800200)
  | .wrEnv _ _ => (0x1FFF803, 0x1800800)
  | .wrBuf _ _ _ => (0x1200000, 0x1200000)
  | .badAccess _ size _ _ => if size = 0b11#2 then (0x0C00000, 0x0C00000) else (0, 0)
  | .renderStart => (0x1FFFFFF, 0x1800004)
  | .sampleStep => (0x0, 0x0)
  | .renderComplete => (0x0, 0x0)
  | .sineLookup _ => (0x0, 0x0)
  | .harmonicCount _ => (0x0, 0x0)
  | .bandSelect _ => (0x0, 0x0)
  | .gen _ _ _ => (0x0, 0x0)
  | .shapeSine _ => (0x7, 0x0)
  | .shapeSlant _ _ => (0x7, 0x1)
  | .shapeSquare _ _ => (0x7, 0x2)
  | .shapeSaw _ _ => (0x7, 0x3)
  | .shapeTri _ _ => (0x7, 0x4)
  | .shapeImpulse _ _ => (0x7, 0x5)
  | .squish _ => (0x0, 0x0)
  | .fmOff _ => (0x03, 0x00)
  | .fmFreq _ => (0x03, 0x01)
  | .fmShape _ => (0x03, 0x02)
  | .fmRes _ => (0x03, 0x03)
  | .amOff _ => (0x0C, 0x00)
  | .amAmp _ => (0x0C, 0x04)
  | .amRes _ => (0x0C, 0x08)
  | .amShape _ => (0x0C, 0x0C)
  | .mulOff _ => (0x30, 0x00)
  | .mulAdd _ => (0x30, 0x10)
  | .mulSub _ => (0x30, 0x20)
  | .mulMul _ => (0x30, 0x30)
  | .oscEval _ => (0x0, 0x0)
  | .phaseInc _ => (0x0, 0x0)
  | .phaseAdvance _ _ => (0x0, 0x0)
  | .bqActive _ _ => (0x1, 0x0)
  | .bqBypass _ _ => (0x1, 0x1)
  | .bqCascade _ => (0x0, 0x0)
  | .crushOff _ => (0x1, 0x0)
  | .crushHold _ => (0x1, 0x1)
  | .envInterp => (0x1, 0x0)
  | .envHold => (0x1, 0x1)
  | .envAdvance => (0x0, 0x0)
  | .postScale _ _ => (0x0, 0x0)
  | .quantWrap _ => (0x1, 0x0)
  | .quantClamp _ => (0x1, 0x1)

/-- The encoding of a well-formed operation has the fixed bits of its row. -/
def Statement (i : Instr) : Prop :=
  wellFormed i = true → ∀ c : Code, encode i = some c → selectionWord c &&& (maskMatch i).1 = (maskMatch i).2

theorem of_encode {i : Instr} {c : Code} (h : encode i = some c)
    (hw : wellFormed i = true → selectionWord c &&& (maskMatch i).1 = (maskMatch i).2) : Statement i := by
  intro hi c' hc
  rw [h] at hc
  cases hc
  exact hw hi

theorem of_none {i : Instr} (h : encode i = none) : Statement i := by
  intro _ c hc
  rw [h] at hc
  cases hc

/-- The fixed bits of a descriptor, as a fact about bit vectors. -/
theorem desc_bits {T m k : Desc} (h : T &&& m = k) : T.toNat &&& m.toNat = k.toNat := by
  rw [← h, BitVec.toNat_and]

theorem aligned_bit {i : BitVec 21} {w : Nat} (h : i.toNat % 2 ^ w = 0) {b : Nat} (hb : b < w) (h21 : b < 21) :
    i[b] = false := by
  rw [← BitVec.getLsbD_eq_getElem, BitVec.getLsbD, Nat.testBit_eq_decide_div_mod_eq]
  obtain ⟨q, hq⟩ := Nat.dvd_of_mod_eq_zero h
  obtain ⟨d, rfl⟩ : ∃ d, w = b + 1 + d := ⟨w - b - 1, by omega⟩
  rw [hq, show 2 ^ (b + 1 + d) * q = 2 ^ b * (2 * (2 ^ d * q)) by ring, Nat.mul_div_cancel_left _ (by positivity)]
  simp

/-- The bits of a buffer access's descriptor (R61, R80). -/
theorem buf_bits (we : Bool) (w : Width) (i : BitVec 21) {m k : Desc}
    (h : ∀ j < 25, ((if j = 24 then we else if j < 21 then i.getLsbD j else
      if j = 21 then true else (Machine.widthCode w).getLsbD (j - 22)) && m.getLsbD j) = k.getLsbD j) :
    (mkDesc we (Machine.widthCode w) ((1#1 ++ i).cast rfl)).toNat &&& m.toNat = k.toNat := by
  apply desc_bits
  apply BitVec.eq_of_getLsbD_eq
  intro j hj
  rw [← h j hj, BitVec.getLsbD_and]
  congr 1
  simp only [mkDesc, BitVec.getLsbD_cast, BitVec.getLsbD_append]
  interval_cases j <;> simp

theorem rdReg (r : RegName) : Statement (.rdReg r) := by
  refine of_encode rfl fun _ => ?_
  show (mkDesc false 0b10#2 (BitVec.ofNat 22 (Machine.regAddr r))).toNat &&& 0x1E00003 = 0x0800000
  cases r with
  | dial i => revert i; decide +kernel
  | slot s => revert s; decide +kernel
  | env k => revert k; decide +kernel
  | _ => decide
theorem rdBuf8 (i : BitVec 21) : Statement (.rdBuf8 i) := by
  refine of_encode rfl fun h => buf_bits false .w1 i (m := 0x1E00000#25) (k := 0x0200000#25) fun j hj => ?_
  interval_cases j <;> simp [Machine.widthCode]
theorem rdBuf16 (i : BitVec 21) : Statement (.rdBuf16 i) := by
  refine of_encode rfl fun h => buf_bits false .w2 i (m := 0x1E00001#25) (k := 0x0600000#25) fun j hj => ?_
  have h' : i.toNat % 2 ^ 1 = 0 := of_decide_eq_true h
  have b0 := aligned_bit h' (b := 0) (by decide) (by decide)
  interval_cases j <;> simp [b0, Machine.widthCode]
theorem rdBuf32 (i : BitVec 21) : Statement (.rdBuf32 i) := by
  refine of_encode rfl fun h => buf_bits false .w4 i (m := 0x1E00003#25) (k := 0x0A00000#25) fun j hj => ?_
  have h' : i.toNat % 2 ^ 2 = 0 := of_decide_eq_true h
  have b0 := aligned_bit h' (b := 0) (by decide) (by decide)
  have b1 := aligned_bit h' (b := 1) (by decide) (by decide)
  interval_cases j <;> simp [b0, b1, Machine.widthCode]
theorem wrId (v : Word) : Statement (.wrId v) :=
  of_encode rfl fun _ => (by decide :
    (mkDesc true 0b10#2 (BitVec.ofNat 22 (Machine.regAddr .id))).toNat &&& 0x1FFFFFF = 0x1800000)
theorem wrCtrl (v : Word) : Statement (.wrCtrl v) :=
  of_encode rfl fun _ => (by decide :
    (mkDesc true 0b10#2 (BitVec.ofNat 22 (Machine.regAddr .ctrl))).toNat &&& 0x1FFFFFF = 0x1800004)
theorem wrStatus (v : Word) : Statement (.wrStatus v) :=
  of_encode rfl fun _ => (by decide :
    (mkDesc true 0b10#2 (BitVec.ofNat 22 (Machine.regAddr .status))).toNat &&& 0x1FFFFFF = 0x1800008)
theorem wrConfig (v : Word) : Statement (.wrConfig v) :=
  of_encode rfl fun _ => (by decide :
    (mkDesc true 0b10#2 (BitVec.ofNat 22 (Machine.regAddr .config))).toNat &&& 0x1FFFFFF = 0x180000C)
theorem wrDuration (v : Word) : Statement (.wrDuration v) :=
  of_encode rfl fun _ => (by decide :
    (mkDesc true 0b10#2 (BitVec.ofNat 22 (Machine.regAddr .duration))).toNat &&& 0x1FFFFFF = 0x1800010)
theorem wrLength (v : Word) : Statement (.wrLength v) :=
  of_encode rfl fun _ => (by decide :
    (mkDesc true 0b10#2 (BitVec.ofNat 22 (Machine.regAddr .length))).toNat &&& 0x1FFFFFF = 0x1800014)
theorem wrProgress (v : Word) : Statement (.wrProgress v) :=
  of_encode rfl fun _ => (by decide :
    (mkDesc true 0b10#2 (BitVec.ofNat 22 (Machine.regAddr .progress))).toNat &&& 0x1FFFFFF = 0x1800018)
theorem wrIrqEn (v : Word) : Statement (.wrIrqEn v) :=
  of_encode rfl fun _ => (by decide :
    (mkDesc true 0b10#2 (BitVec.ofNat 22 (Machine.regAddr .irqEn))).toNat &&& 0x1FFFFFF = 0x180001C)
theorem wrSectionLength (v : Word) : Statement (.wrSectionLength v) :=
  of_encode rfl fun _ => (by decide :
    (mkDesc true 0b10#2 (BitVec.ofNat 22 (Machine.regAddr .sectionLength))).toNat &&& 0x1FFFFFF = 0x1800240)
theorem wrDial (i : Fin 50) (v : Word) : Statement (.wrDial i v) :=
  of_encode rfl fun _ => (by decide +kernel : ∀ i : Fin 50,
    (mkDesc true 0b10#2 (BitVec.ofNat 22 (Machine.regAddr (.dial i)))).toNat &&& 0x1FFFF03 = 0x1800100) i
theorem wrSlot (s : Fin 10) (v : Word) : Statement (.wrSlot s v) :=
  of_encode rfl fun _ => (by decide +kernel : ∀ s : Fin 10,
    (mkDesc true 0b10#2 (BitVec.ofNat 22 (Machine.regAddr (.slot s)))).toNat &&& 0x1FFFFC3 = 0x1800200) s
theorem wrEnv (k : Fin 466) (v : Word) : Statement (.wrEnv k v) :=
  of_encode rfl fun _ => (by decide +kernel : ∀ k : Fin 466,
    (mkDesc true 0b10#2 (BitVec.ofNat 22 (Machine.regAddr (.env k)))).toNat &&& 0x1FFF803 = 0x1800800) k
theorem wrBuf (w : Width) (i : BitVec 21) (v : Word) : Statement (.wrBuf w i v) := by
  refine of_encode rfl fun _ => buf_bits true w i (m := 0x1200000#25) (k := 0x1200000#25) fun j hj => ?_
  interval_cases j <;> simp
theorem badAccess (we : Bool) (size : BitVec 2) (addr : BitVec 22) (v : Word) : Statement (.badAccess we size addr v) := by
  refine of_encode rfl fun _ => ?_
  by_cases h : size = 0b11#2
  · subst h
    simp only [maskMatch, if_true]
    refine desc_bits (T := mkDesc we 0b11#2 addr) (m := 0x0C00000#25) (k := 0x0C00000#25) ?_
    apply BitVec.eq_of_getLsbD_eq
    intro j hj
    simp only [mkDesc, BitVec.getLsbD_and, BitVec.getLsbD_cast, BitVec.getLsbD_append]
    interval_cases j <;> simp
  · simp only [maskMatch, if_neg h]
    exact Nat.and_zero _
theorem renderStart : Statement (.renderStart) := of_none rfl
theorem sampleStep : Statement (.sampleStep) := of_none rfl
theorem renderComplete : Statement (.renderComplete) := of_none rfl
theorem sineLookup (idx : Word) : Statement (.sineLookup idx) := of_none rfl
theorem harmonicCount (r : F) : Statement (.harmonicCount r) := of_none rfl
theorem bandSelect (t : F) : Statement (.bandSelect t) := of_none rfl
theorem gen (t : F) (p : Word) (r : F) : Statement (.gen t p r) := of_none rfl
theorem shapeSine (p : Word) : Statement (.shapeSine p) :=
  of_encode rfl fun _ => (by decide : (0#3).toNat &&& 0x7 = 0x0)
theorem shapeSlant (p : Word) (n : Nat) : Statement (.shapeSlant p n) :=
  of_encode rfl fun _ => (by decide : (1#3).toNat &&& 0x7 = 0x1)
theorem shapeSquare (p : Word) (n : Nat) : Statement (.shapeSquare p n) :=
  of_encode rfl fun _ => (by decide : (2#3).toNat &&& 0x7 = 0x2)
theorem shapeSaw (p : Word) (n : Nat) : Statement (.shapeSaw p n) :=
  of_encode rfl fun _ => (by decide : (3#3).toNat &&& 0x7 = 0x3)
theorem shapeTri (p : Word) (n : Nat) : Statement (.shapeTri p n) :=
  of_encode rfl fun _ => (by decide : (4#3).toNat &&& 0x7 = 0x4)
theorem shapeImpulse (p : Word) (r : F) : Statement (.shapeImpulse p r) :=
  of_encode rfl fun _ => (by decide : (5#3).toNat &&& 0x7 = 0x5)
theorem squish (u : F) : Statement (.squish u) := of_none rfl
theorem fmOff (s : Fin 10) : Statement (.fmOff s) :=
  of_encode rfl fun _ => (by decide : (0b000000#6).toNat &&& 0x03 = 0x00)
theorem fmFreq (s : Fin 10) : Statement (.fmFreq s) :=
  of_encode rfl fun _ => (by decide : (0b000001#6).toNat &&& 0x03 = 0x01)
theorem fmShape (s : Fin 10) : Statement (.fmShape s) :=
  of_encode rfl fun _ => (by decide : (0b000010#6).toNat &&& 0x03 = 0x02)
theorem fmRes (s : Fin 10) : Statement (.fmRes s) :=
  of_encode rfl fun _ => (by decide : (0b000011#6).toNat &&& 0x03 = 0x03)
theorem amOff (s : Fin 10) : Statement (.amOff s) :=
  of_encode rfl fun _ => (by decide : (0b000000#6).toNat &&& 0x0C = 0x00)
theorem amAmp (s : Fin 10) : Statement (.amAmp s) :=
  of_encode rfl fun _ => (by decide : (0b000100#6).toNat &&& 0x0C = 0x04)
theorem amRes (s : Fin 10) : Statement (.amRes s) :=
  of_encode rfl fun _ => (by decide : (0b001000#6).toNat &&& 0x0C = 0x08)
theorem amShape (s : Fin 10) : Statement (.amShape s) :=
  of_encode rfl fun _ => (by decide : (0b001100#6).toNat &&& 0x0C = 0x0C)
theorem mulOff (s : Fin 10) : Statement (.mulOff s) :=
  of_encode rfl fun _ => (by decide : (0b000000#6).toNat &&& 0x30 = 0x00)
theorem mulAdd (s : Fin 10) : Statement (.mulAdd s) :=
  of_encode rfl fun _ => (by decide : (0b010000#6).toNat &&& 0x30 = 0x10)
theorem mulSub (s : Fin 10) : Statement (.mulSub s) :=
  of_encode rfl fun _ => (by decide : (0b100000#6).toNat &&& 0x30 = 0x20)
theorem mulMul (s : Fin 10) : Statement (.mulMul s) :=
  of_encode rfl fun _ => (by decide : (0b110000#6).toNat &&& 0x30 = 0x30)
theorem oscEval (n : Fin 8) : Statement (.oscEval n) := of_none rfl
theorem phaseInc (f : F) : Statement (.phaseInc f) := of_none rfl
theorem phaseAdvance (n : Fin 8) (f : F) : Statement (.phaseAdvance n f) := of_none rfl
theorem bqActive (j : Fin 3) (x : F) : Statement (.bqActive j x) :=
  of_encode rfl fun _ => (by decide : (0#1).toNat &&& 0x1 = 0x0)
theorem bqBypass (j : Fin 3) (x : F) : Statement (.bqBypass j x) :=
  of_encode rfl fun _ => (by decide : (1#1).toNat &&& 0x1 = 0x1)
theorem bqCascade (x : F) : Statement (.bqCascade x) := of_none rfl
theorem crushOff (v : F) : Statement (.crushOff v) :=
  of_encode rfl fun _ => (by decide : (0#1).toNat &&& 0x1 = 0x0)
theorem crushHold (v : F) : Statement (.crushHold v) :=
  of_encode rfl fun _ => (by decide : (1#1).toNat &&& 0x1 = 0x1)
theorem envInterp : Statement (.envInterp) :=
  of_encode rfl fun _ => (by decide : (0#1).toNat &&& 0x1 = 0x0)
theorem envHold : Statement (.envHold) :=
  of_encode rfl fun _ => (by decide : (1#1).toNat &&& 0x1 = 0x1)
theorem envAdvance : Statement (.envAdvance) := of_none rfl
theorem postScale (e : F) (v : F) : Statement (.postScale e v) := of_none rfl
theorem quantWrap (s : F) : Statement (.quantWrap s) :=
  of_encode rfl fun _ => (by decide : (0#1).toNat &&& 0x1 = 0x0)
theorem quantClamp (s : F) : Statement (.quantClamp s) :=
  of_encode rfl fun _ => (by decide : (1#1).toNat &&& 0x1 = 0x1)

end Sys2Proof.Laws.TableRow
end

