-- ==== Sys2Proof/Tests/Slice0.lean ====
section
/-! SUPPORT. Tests. Their expected results are the spec's own: the vectors of 95_test_vectors.md (its section is named at
each group) and the encoding tables of 30_encoding.md. The last part shows, for every statement with hypotheses, a state and
operands that meet them. -/

open Sys2Proof Sys2Proof.Machine

namespace Sys2Proof.Tests

set_option Elab.async false

/-! ## Helpers -/

/-- A field of the state an operation leaves. -/
def after {α : Type} (o : Result State) (view : State → α) : Option α :=
  match o with
  | .next s => some (view s)
  | _ => none

/-- The test configuration TCFG (95_test_vectors section 0). -/
def tcfg : Params where
  sampleRate := 44100
  maxClip := 1455300
  hmax := 64
  harmonics := .standard
  dialScale := Vector.ofFn fun i =>
    if i.val < 32 then
      (if i.val % 4 = 0 then 0x46AC4400#32 else if i.val % 4 = 1 then 0x42C80000#32 else if i.val % 4 = 2 then 0x42800000#32 else fOne)
    else if i.val < 47 then 0x40000000#32
    else if i.val = 48 then 0x43000000#32 else fOne
  dialPolarity := Vector.ofFn fun i => if (32 ≤ i.val && i.val < 47) || i.val = 48 then .bi else .uni
  impH := Vector.ofFn fun k => k.val + 1
  impW := Vector.ofFn fun k => w1 (k.val + 1)
  impT := Vector.ofFn fun k => toF k.val

/-- The state after reset under TCFG. -/
def idle : State := { State.reset with cfg := tcfg }

/-- The patch of program P2: O1 at a quarter of the sample rate with amplitude 100, and an envelope of 1.0. -/
def quarter : Patch :=
  { Patch.initial with
    dial := (Patch.initial.dial.set 0 0x3F000000#32).set 1 fOne
    env := Vector.replicate 466 fOne }

/-- A render of P2 with three samples to go, one of them done. -/
def running : State :=
  { idle with
    patch := quarter
    busy := true
    length := 3#32
    progress := 1#32
    render := { Render.initial with phase := Vector.replicate 8 0x40000000#32, total := 3, sps := 1 } }

/-- The state after the render of P2: its first four samples. -/
def rendered : State := { idle with done := true, length := 4#32, progress := 4#32, buf := [(1, 0x64#8), (3, 0x9C#8)] }

/-- The working set with the upstream sample `u` at every oscillator. -/
def working (u : F) (d : Datapath) : State := { idle with dp := { d with o := Vector.replicate 8 u } }

/-! ## Well-formedness: each check refuses an ill-formed term -/

theorem test_wf_rdBuf16_misaligned :
    wellFormed (.rdBuf16 3#21) = false := by decide

theorem test_wf_rdBuf32_misaligned :
    wellFormed (.rdBuf32 2#21) = false := by decide

theorem test_wf_wrBuf_misaligned :
    wellFormed (.wrBuf .w2 1#21 0#32) = false ∧ wellFormed (.wrBuf .w4 6#21 0#32) = false := by decide

theorem test_wf_badAccess_legal :
    wellFormed (.badAccess false 0b10#2 0x008#22 0#32) = false := by decide

theorem test_wf_badAccess_read_with_data :
    wellFormed (.badAccess false 0b11#2 0x008#22 1#32) = false := by decide

theorem test_wf_shapeSlant_count :
    wellFormed (.shapeSlant 0#32 0) = false ∧ wellFormed (.shapeSlant 0#32 64) = true := by decide

theorem test_wf_shapeSquare_count :
    wellFormed (.shapeSquare 0#32 0) = false ∧ wellFormed (.shapeSquare 0#32 64) = true := by decide

theorem test_wf_shapeSaw_count :
    wellFormed (.shapeSaw 0#32 0) = false ∧ wellFormed (.shapeSaw 0#32 64) = true := by decide

theorem test_wf_shapeTri_count :
    wellFormed (.shapeTri 0#32 0) = false ∧ wellFormed (.shapeTri 0#32 64) = true := by decide

/-! ## Decoding of written-out words

Descriptors: the table of 95_test_vectors section 2.9, and R80 to R93. -/

theorem test_decode_reads :
    decodeBus 0x0800008#25 7#32 = .rdReg .status ∧ decodeBus 0x0800000#25 7#32 = .rdReg .id ∧
      decodeBus 0x08001C4#25 7#32 = .rdReg (.dial 49) ∧ decodeBus 0x0800F44#25 7#32 = .rdReg (.env 465) ∧
      decodeBus 0x0800224#25 7#32 = .rdReg (.slot 9) ∧ decodeBus 0x0800240#25 7#32 = .rdReg .sectionLength := by decide

theorem test_decode_buffer_reads :
    decodeBus 0x0200000#25 7#32 = .rdBuf8 0#21 ∧ decodeBus 0x0200001#25 7#32 = .rdBuf8 1#21 ∧
      decodeBus 0x0600002#25 7#32 = .rdBuf16 2#21 ∧ decodeBus 0x0A00000#25 7#32 = .rdBuf32 0#21 ∧
      decodeBus 0x0A0AC40#25 7#32 = .rdBuf32 0xAC40#21 := by decide

theorem test_decode_control_writes :
    decodeBus 0x1800000#25 7#32 = .wrId 7#32 ∧ decodeBus 0x1800004#25 7#32 = .wrCtrl 7#32 ∧
      decodeBus 0x1800008#25 7#32 = .wrStatus 7#32 ∧ decodeBus 0x180000C#25 7#32 = .wrConfig 7#32 ∧
      decodeBus 0x1800010#25 7#32 = .wrDuration 7#32 ∧ decodeBus 0x1800014#25 7#32 = .wrLength 7#32 ∧
      decodeBus 0x1800018#25 7#32 = .wrProgress 7#32 ∧ decodeBus 0x180001C#25 7#32 = .wrIrqEn 7#32 := by decide

theorem test_decode_patch_writes :
    decodeBus 0x1800100#25 7#32 = .wrDial 0 7#32 ∧ decodeBus 0x18001C0#25 7#32 = .wrDial 48 7#32 ∧
      decodeBus 0x1800220#25 7#32 = .wrSlot 8 7#32 ∧ decodeBus 0x1800240#25 7#32 = .wrSectionLength 7#32 ∧
      decodeBus 0x1800800#25 7#32 = .wrEnv 0 7#32 ∧ decodeBus 0x1800F44#25 7#32 = .wrEnv 465 7#32 := by decide +kernel

theorem test_decode_buffer_write :
    decodeBus 0x1A00000#25 7#32 = .wrBuf .w4 0#21 7#32 ∧ decodeBus 0x1200001#25 7#32 = .wrBuf .w1 1#21 7#32 := by decide

theorem test_decode_illegal :
    decodeBus 0x08001C8#25 7#32 = .badAccess false 2#2 0x1C8#22 0#32 ∧
      decodeBus 0x0800F48#25 7#32 = .badAccess false 2#2 0xF48#22 0#32 ∧
      decodeBus 0x0800020#25 7#32 = .badAccess false 2#2 0x020#22 0#32 ∧
      decodeBus 0x0800002#25 7#32 = .badAccess false 2#2 0x002#22 0#32 ∧
      decodeBus 0x0000008#25 7#32 = .badAccess false 0#2 0x008#22 0#32 ∧
      decodeBus 0x0C00000#25 7#32 = .badAccess false 3#2 0#22 0#32 ∧
      decodeBus 0x0600001#25 7#32 = .badAccess false 1#2 0x200001#22 0#32 ∧
      decodeBus 0x1800228#25 7#32 = .badAccess true 2#2 0x228#22 7#32 := by decide +kernel

theorem test_decode_fm :
    [0#6, 1#6, 2#6, 3#6].map (fun w => decode (.fm 4 w)) =
      [.ok (.fmOff 4), .ok (.fmFreq 4), .ok (.fmShape 4), .ok (.fmRes 4)] := by decide

theorem test_decode_am :
    [0#6, 4#6, 8#6, 12#6].map (fun w => decode (.am 4 w)) =
      [.ok (.amOff 4), .ok (.amAmp 4), .ok (.amRes 4), .ok (.amShape 4)] := by decide

theorem test_decode_mul :
    [0#6, 16#6, 32#6, 48#6].map (fun w => decode (.mul 4 w)) =
      [.ok (.mulOff 4), .ok (.mulAdd 4), .ok (.mulSub 4), .ok (.mulMul 4)] := by decide

theorem test_decode_band :
    [0#3, 1#3, 2#3, 3#3, 4#3, 5#3, 6#3, 7#3].map (fun b => decode (.band b 9#32 5 fOne)) =
      [.ok (.shapeSine 9#32), .ok (.shapeSlant 9#32 5), .ok (.shapeSquare 9#32 5), .ok (.shapeSaw 9#32 5),
        .ok (.shapeTri 9#32 5), .ok (.shapeImpulse 9#32 fOne), .error .reservedBand, .error .reservedBand] := by decide

theorem test_decode_mode_bits :
    decode (.byp 0#1 2 fOne) = .ok (.bqActive 2 fOne) ∧ decode (.byp 1#1 2 fOne) = .ok (.bqBypass 2 fOne) ∧
      decode (.crush 0#1 fOne) = .ok (.crushOff fOne) ∧ decode (.crush 1#1 fOne) = .ok (.crushHold fOne) ∧
      decode (.env 0#1) = .ok .envInterp ∧ decode (.env 1#1) = .ok .envHold ∧
      decode (.quant 0#1 fOne) = .ok (.quantWrap fOne) ∧ decode (.quant 1#1 fOne) = .ok (.quantClamp fOne) := by decide

/-- The record of `WR CTRL, 1` (log entry 12). -/
theorem test_decode_record :
    decodeBytes [0x04#8, 0x00#8, 0x80#8, 0x01#8, 0x01#8, 0x00#8, 0x00#8, 0x00#8, 0xAA#8] = .ok (.wrCtrl 1#32, [0xAA#8]) ∧
      decodeBytes [0x04#8, 0x00#8, 0x80#8, 0x03#8, 0x01#8, 0x00#8, 0x00#8, 0x00#8] = .error .reservedDescriptorBits ∧
      decodeBytes [0x04#8, 0x00#8, 0x80#8] = .error .truncated := by decide

/-- `WR DIAL[49], f:0.1` of program P3. -/
theorem test_encode_record :
    encodeBytes (.wrDial 49 0x3DCCCCCD#32) =
      some [0xC4#8, 0x01#8, 0x80#8, 0x01#8, 0xCD#8, 0xCC#8, 0xCC#8, 0x3D#8] := by decide

theorem test_table_words :
    decodeTableWord 32 0x1800004 = some (.wrCtrl 0#32) ∧ decodeTableWord 32 0x0600002 = some (.rdBuf16 2#21) ∧
      decodeTableWord 8 0x4 = some (.shapeTri 0#32 1) ∧ decodeTableWord 8 0x30 = some (.mulMul 0) := by decide

theorem test_fetched_word_runs :
    after (step (idle.withFetchWord 32 0x180001C)) (fun s => (s.doneIe, s.agenda)) = some (false, []) ∧
      after (step (idle.withFetchWord 64 0x10180001C)) (fun s => (s.doneIe, s.agenda)) = some (true, []) := by decide +kernel

/-! ## Host reads (2.9, 44_render R211, R223) -/

theorem test_rdReg_reset :
    after (exec (.rdReg .status) idle) State.rdata = some 0#32 ∧ after (exec (.rdReg .sectionLength) idle) State.rdata = some 3#32 ∧
      after (exec (.rdReg .ctrl) idle) State.rdata = some 0#32 ∧
        after (exec (.rdReg .id) idle) State.rdata = some 0x42455233#32 := by decide +kernel

theorem test_rdReg_status_bits :
    after (exec (.rdReg .status) { idle with done := true, errAddr := true }) State.rdata = some 0xA#32 := by decide +kernel

theorem test_rdBuf8 :
    after (exec (.rdBuf8 1#21) rendered) State.rdata = some 0x64#32 ∧ after (exec (.rdBuf8 4#21) rendered) State.rdata = some 0#32 := by decide +kernel

theorem test_rdBuf16 :
    after (exec (.rdBuf16 2#21) rendered) State.rdata = some 0x9C00#32 := by decide +kernel

/-- Program P2: H1. -/
theorem test_rdBuf32 :
    after (exec (.rdBuf32 0#21) rendered) State.rdata = some 0x9C006400#32 := by decide +kernel

theorem test_rdBuf32_busy :
    after (exec (.rdBuf32 0#21) { rendered with busy := true }) State.rdata = some 0#32 := by decide +kernel

/-! ## Host writes (2.9) -/

theorem test_wrId (v : Word) : exec (.wrId v) idle = .next idle := rfl

/-- R213. -/
theorem test_wrCtrl_start :
    after (exec (.wrCtrl 0xFFFFFFFF#32) { idle with duration := 1#32 }) (fun s => (s.length, s.busy, s.done)) =
      some (44100#32, true, false) := by decide +kernel

theorem test_wrCtrl_busy :
    after (exec (.wrCtrl 1#32) running) (fun s => (s.errBusy, s.progress)) = some (true, 1#32) ∧
      after (exec (.wrCtrl 0#32) running) State.errBusy = some false := by decide +kernel

theorem test_wrStatus :
    after (exec (.wrStatus 4#32) { idle with done := true, errBusy := true, errAddr := true }) State.statusWord = some 0xA#32 := by decide +kernel

theorem test_wrConfig :
    after (exec (.wrConfig 3#32) idle) (fun s => s.readReg .config) = some 1#32 := by decide +kernel

theorem test_wrDuration :
    after (exec (.wrDuration 1000#32) idle) State.duration = some 1000#32 := by decide +kernel

theorem test_wrLength (v : Word) : exec (.wrLength v) running = .next running := rfl

theorem test_wrProgress (v : Word) : exec (.wrProgress v) running = .next running := rfl

theorem test_wrIrqEn :
    after (exec (.wrIrqEn 1#32) { idle with done := true }) State.irq = some true ∧
      after (exec (.wrIrqEn 1#32) running) (fun s => (s.doneIe, s.errBusy)) = some (true, false) := by decide +kernel

theorem test_wrSectionLength :
    [0#32, 34#32, 0xFFFFFFFF#32, 67#32, 33#32].map
        (fun v => after (exec (.wrSectionLength v) idle) (fun s => s.patch.sectionLength)) =
      [some 33#6, some 1#6, some 32#6, some 1#6, some 33#6] := by decide +kernel

theorem test_wrDial :
    after (exec (.wrDial 1 0x3FC00000#32) idle) (fun s => s.patch.dial[1]) = some 0x3F800000#32 ∧
      after (exec (.wrDial 1 0xBE800000#32) idle) (fun s => s.patch.dial[1]) = some 0x00000000#32 ∧
      after (exec (.wrDial 48 0xC0400000#32) idle) (fun s => s.patch.dial[48]) = some 0xBF800000#32 := by decide +kernel

theorem test_wrDial_nan_and_minus_zero :
    after (exec (.wrDial 48 0x7FC00000#32) running) (fun s => (s.patch.dial[48], s.errBusy)) = some (0#32, true) ∧
      after (exec (.wrDial 48 0x7FC00000#32) idle) (fun s => (s.patch.dial[48], s.errBusy)) = some (0#32, false) ∧
      after (exec (.wrDial 3 0x80000000#32) idle) (fun s => s.patch.dial[3]) = some 0x80000000#32 := by decide +kernel

theorem test_wrSlot :
    after (exec (.wrSlot 8 0xF9#32) idle) (fun s => (slotFm s.patch.slot[8], slotAm s.patch.slot[8], slotMul s.patch.slot[8])) =
      some (1#2, 2#2, 3#2) ∧ after (exec (.wrSlot 8 0xF9#32) idle) (fun s => s.readReg (.slot 8)) = some 0x39#32 := by decide +kernel

theorem test_wrEnv :
    after (exec (.wrEnv 1 0x40000000#32) idle) (fun s => s.patch.env[1]) = some 0x3F800000#32 := by decide +kernel

theorem test_wrBuf :
    after (exec (.wrBuf .w4 0#21 0#32) rendered) (fun s => (s.errAddr, s.buf)) = some (true, rendered.buf) := by decide +kernel

theorem test_badAccess :
    after (exec (.badAccess false 0b10#2 0x20#22 0#32) { running with rdata := 9#32 }) (fun s => (s.rdata, s.errAddr, s.errBusy)) =
      some (0#32, true, false) := by decide +kernel

/-! ## The render engine (2.10) -/

theorem test_renderStart :
    [0#32, 1#32, 2#32, 1000#32, 0xFFFFFFFF#32].map
        (fun d => after (exec .renderStart { idle with duration := d }) (fun s => (s.length.toNat, s.render.sps, s.busy, s.done))) =
      [some (0, 1, false, true), some (44100, 94, true, false), some (88200, 189, true, false),
        some (1455300, 3122, true, false), some (1455300, 3122, true, false)] := by decide +kernel

/-- 2.5, 2.6, 2.7. -/
theorem test_renderStart_latches :
    after (exec .renderStart { idle with patch := { Patch.initial with
        dial := ((Patch.initial.dial.set 47 0x3F000000#32).set 48 0xBF800000#32).set 49 0x3DCCCCCD#32 } })
      (fun s => (s.render.seg, s.render.cl, s.render.dcv)) = some (233, 3, 0xC3000000#32) := by decide +kernel

/-- Step 1 of program P2 writes 100 at index 1 (R228). -/
theorem test_sampleStep :
    after (exec .sampleStep running) (fun s => (s.buf, s.progress, s.busy, s.render.phase[0])) =
      some ([(1, 0x64#8)], 2#32, true, 0x80000000#32) := by decide +kernel

theorem test_sampleStep_last :
    after (exec .sampleStep { running with progress := 2#32 }) (fun s => (s.progress, s.busy, s.done)) =
      some (3#32, false, true) := by decide +kernel

theorem test_renderComplete :
    after (exec .renderComplete { running with doneIe := true }) (fun s => (s.busy, s.done, s.irq)) = some (false, true, true) := by decide +kernel

/-! ## The sine table and the generator (2.1, 2.2) -/

theorem test_sineLookup :
    [0#32, 32768#32, 16384#32, 49152#32, 8192#32, 1#32, 0x4000#32, 65535#32].map (fun k => after (exec (.sineLookup k) idle) (fun s => s.dp.y)) =
      [some 0#32, some 0#32, some 0x3F800000#32, some 0xBF800000#32, some 0x3F3504F3#32, some 0x38C90FDB#32,
        some 0x3F800000#32, some 0xB8C90FDB#32] := by decide +kernel

theorem test_hidx_and_weights :
    hidx 1 0x20000000#32 = 8192#16 ∧ hidx 3 0x20000000#32 = 24576#16 ∧ hidx 3 0xC0000000#32 = 16384#16 ∧
      w1 3 = 0x3EAAAAAB#32 ∧ w2 3 = 0x3DE38E39#32 ∧ w2 7 = 0x3CA72F05#32 := by decide +kernel

theorem test_harmonicCount :
    [0x00000000#32, 0x3F7D70A4#32, 0x3F800000#32, 0x402CCCCD#32, 0x42800000#32, 0x447A0000#32, 0xC0400000#32, 0x7FC00000#32, 0x7F800000#32].map
        (fun r => after (exec (.harmonicCount r) idle) (fun s => s.dp.n)) =
      [some 1, some 1, some 1, some 2, some 64, some 64, some 1, some 1, some 64] := by decide +kernel

theorem test_bandSelect :
    [0x3DCCCCCD#32, 0x3E2AAAAA#32, 0x3E2AAAAB#32, 0x3EAAA64C#32, 0x3EAAB368#32, 0x3EFFF2E5#32, 0x3F000000#32, 0x3F2AACDA#32].map
        (fun t => after (exec (.bandSelect t) idle) (fun s => s.dp.band)) =
      [some .sine, some .sine, some .slant, some .slant, some .square, some .square, some .saw, some .tri] := by decide +kernel

theorem test_bandSelect_ends :
    [0x3F555326#32, 0x3F5559B4#32, 0x3F800000#32, 0xBF000000#32, 0x40E00000#32, 0x7FC00000#32].map
        (fun t => after (exec (.bandSelect t) idle) (fun s => s.dp.band)) =
      [some .tri, some .impulse, some .impulse, some .sine, some .impulse, some .sine] := by decide +kernel

theorem test_gen :
    after (exec (.gen 0x3DCCCCCD#32 0x20000000#32 0#32) idle) (fun s => s.dp.y) = some 0x3F3504F3#32 ∧
      after (exec (.gen 0x3E4CCCCD#32 0x20000000#32 0x40400000#32) idle) (fun s => s.dp.y) = some 0x3F4921F2#32 := by decide +kernel

theorem test_shapeSine :
    after (exec (.shapeSine 0x20000000#32) idle) (fun s => s.dp.y) = some 0x3F3504F3#32 ∧
      after (exec (.shapeSine 0#32) idle) (fun s => s.dp.y) = some 0x00000000#32 := by decide +kernel

theorem test_shapeSlant :
    after (exec (.shapeSlant 0x20000000#32 3) idle) (fun s => s.dp.y) = some 0x3F4921F2#32 ∧
      after (exec (.shapeSlant 0x20000000#32 5) idle) (fun s => s.dp.y) = some 0x3F41E44F#32 := by decide +kernel

theorem test_shapeSquare :
    after (exec (.shapeSquare 0x20000000#32 3) idle) (fun s => s.dp.y) = some 0x3F715BEF#32 ∧
      after (exec (.shapeSquare 0x20000000#32 5) idle) (fun s => s.dp.y) = some 0x3F4D27BE#32 ∧
      after (exec (.shapeSquare 0x40000000#32 64) idle) (fun s => s.dp.y) = some 0x3F470FF9#32 := by decide +kernel

theorem test_shapeSaw :
    after (exec (.shapeSaw 0x20000000#32 3) idle) (fun s => s.dp.y) = some 0x3FB8ADF8#32 ∧
      after (exec (.shapeSaw 0x10000000#32 64) idle) (fun s => s.dp.y) = some 0x3FAAEAEB#32 ∧
      after (exec (.shapeSaw 0xC0000000#32 2) idle) (fun s => s.dp.y) = some 0xBF800000#32 := by decide +kernel

theorem test_shapeTri :
    after (exec (.shapeTri 0x40000000#32 3) idle) (fun s => s.dp.y) = some 0x3F8E38E4#32 ∧
      after (exec (.shapeTri 0x40000000#32 5) idle) (fun s => s.dp.y) = some 0x3F93579C#32 := by decide +kernel

theorem test_shapeImpulse :
    after (exec (.shapeImpulse 0x40000000#32 0x40200000#32) idle) (fun s => s.dp.y) = some 0x3F2AAAAA#32 ∧
      after (exec (.shapeImpulse 0x20000000#32 0x41100000#32) idle) (fun s => s.dp.y) = some 0x3F9B2BC6#32 ∧
      after (exec (.shapeImpulse 0x40000000#32 0#32) idle) (fun s => s.dp.y) = some 0x3F800000#32 ∧
      after (exec (.shapeImpulse 0x40000000#32 0x7FC00000#32) idle) (fun s => s.dp.y) = some 0x00000000#32 := by decide +kernel

/-! ## The router (2.3); TANH is open, so its vectors stand at the points R15 fixes -/

theorem test_squish :
    [0#32, 0x80000000#32, 0x7F800000#32, 0xFF800000#32].map (fun u => after (exec (.squish u) idle) (fun s => s.dp.y)) =
      [some 0#32, some 0#32, some 0x3F800000#32, some 0x3F800000#32] := by decide +kernel

theorem test_fmOff : exec (.fmOff 8) (working 0x3F000000#32 Datapath.rest) = .next (working 0x3F000000#32 Datapath.rest) := rfl

theorem test_fmFreq :
    after (exec (.fmFreq 8) (working 0x3F000000#32 { Datapath.rest with f := 0x43DC0000#32 })) (fun s => s.dp.f) = some 0x435C0000#32 := by decide +kernel

theorem test_fmShape :
    after (exec (.fmShape 8) (working 0xFF800000#32 { Datapath.rest with t := 0x3F666666#32 })) (fun s => s.dp.t) = some 0x3F666666#32 := by decide +kernel

theorem test_fmRes :
    after (exec (.fmRes 8) (working 0x80000000#32 { Datapath.rest with r := 0x41200000#32 })) (fun s => s.dp.r) = some 0x00000000#32 := by decide +kernel

theorem test_amOff : exec (.amOff 8) (working 0x3F000000#32 Datapath.rest) = .next (working 0x3F000000#32 Datapath.rest) := rfl

theorem test_amAmp :
    after (exec (.amAmp 8) (working 0xBF000000#32 { Datapath.rest with a := 0x42C80000#32 })) (fun s => s.dp.a) = some 0xC2480000#32 := by decide +kernel

theorem test_amRes :
    after (exec (.amRes 8) (working 0xFF800000#32 { Datapath.rest with r := 0x41200000#32 })) (fun s => s.dp.r) = some 0x41200000#32 := by decide +kernel

theorem test_amShape :
    after (exec (.amShape 8) (working 0x80000000#32 { Datapath.rest with t := 0x3F666666#32 })) (fun s => s.dp.t) = some 0x00000000#32 := by decide +kernel

theorem test_mulOff : exec (.mulOff 8) (working 0x3F000000#32 Datapath.rest) = .next (working 0x3F000000#32 Datapath.rest) := rfl

theorem test_mulAdd :
    after (exec (.mulAdd 8) (working 0x3F000000#32 { Datapath.rest with g := 0x3E800000#32 })) (fun s => s.dp.g) = some 0x3F400000#32 := by decide +kernel

theorem test_mulSub :
    after (exec (.mulSub 8) (working 0x3F000000#32 { Datapath.rest with g := 0x3E800000#32 })) (fun s => s.dp.g) = some 0xBE800000#32 := by decide +kernel

theorem test_mulMul :
    after (exec (.mulMul 8) (working 0x3F000000#32 { Datapath.rest with g := 0x3E800000#32 })) (fun s => s.dp.g) = some 0x3E000000#32 := by decide +kernel

/-- S8, R132. -/
theorem test_inputs :
    (List.finRange 8).map slotInputs = [[8, 9], [5, 6], [2, 3], [0], [7], [4], [1], []] := by decide

theorem test_oscEval :
    after (exec (.oscEval 0) running) (fun s => (s.dp.o[0], s.render.phase[0], s.render.phase[1])) =
      some (0x42C80000#32, 0x80000000#32, 0x40000000#32) := by decide +kernel

/-- The example of D24: slot 8 adds before slot 9 multiplies. -/
theorem test_oscEval_combine_order :
    ((({ working 0x40000000#32 { Datapath.rest with g := 0x40400000#32 } with
        patch := { Patch.initial with slot := (Patch.initial.slot.set 8 0x10#6).set 9 0x30#6 } } : State).setO 4 0x3F000000#32).combine
      (slotInputs 0)).dp.g = 0x40200000#32 := by decide +kernel

theorem test_phaseInc :
    [0x462C4400#32, 0x43DC0000#32, 0xC62C4400#32, 0x46AC4400#32, 0x47813300#32, 0x3F800000#32, 0x00000000#32, 0x80000000#32, 0x7FC00000#32, 0xFF800000#32].map
        (fun x => after (exec (.phaseInc x) idle) (fun s => s.dp.inc)) =
      [some 0x40000000#32, some 0x028DDFB8#32, some 0xC0000000#32, some 0x80000000#32, some 0x80000000#32,
        some 0x00017C70#32, some 0#32, some 0#32, some 0#32, some 0#32] := by decide +kernel

theorem test_phaseAdvance :
    after (exec (.phaseAdvance 0 0x462C4400#32) { idle with render := { Render.initial with
      phase := Vector.replicate 8 0xC0000000#32 } }) (fun s => (s.render.phase[0], s.render.phase[7])) = some (0#32, 0xC0000000#32) := by decide +kernel

/-! ## The filter (2.4) -/

/-- Section 1 with b1 = 1.0 and a1 = -0.5, and a history. -/
def filtered (h : Biquad) : State :=
  { idle with
    patch := { Patch.initial with dial := (Patch.initial.dial.set 32 0x3F000000#32).set 35 0xBE800000#32 }
    render := { Render.initial with bq := Render.initial.bq.set 0 h } }

theorem test_bqActive :
    after (exec (.bqActive 0 0xC2C80000#32) (filtered ⟨0x00000000#32, 0x42C80000#32, 0x42480000#32, 0x42C80000#32⟩)) (fun s => (s.dp.v, s.render.bq[0])) =
      some (0xC2960000#32, ⟨0xC2C80000#32, 0x00000000#32, 0xC2960000#32, 0x42480000#32⟩) := by decide +kernel

theorem test_bqBypass :
    after (exec (.bqBypass 1 0x42150000#32) idle) (fun s => (s.dp.v, s.render.bq[1])) = some (0x42150000#32, Biquad.zero) := by decide +kernel

/-- The bound RN(0.01) and one ulp above it, scaled by 2.0. -/
theorem test_bypass_predicate :
    (filtered Biquad.zero).bypassed 0 = false ∧ (filtered Biquad.zero).bypassed 1 = true ∧
      ({ idle with patch := { Patch.initial with dial := Patch.initial.dial.set 32 0x3BA3D70A#32 } } : State).bypassed 0 = true ∧
      ({ idle with patch := { Patch.initial with dial := Patch.initial.dial.set 32 0x3BA3D70B#32 } } : State).bypassed 0 = false := by decide +kernel

theorem test_bqCascade :
    after (exec (.bqCascade 0x42C80000#32) (filtered ⟨0x00000000#32, 0xC2C80000#32, 0xC2160000#32, 0xC2960000#32⟩)) (fun s => (s.dp.v, s.render.bq[1])) =
      some (0x42A28000#32, Biquad.zero) := by decide +kernel

/-! ## Crush, envelope, scaling and quantizer (2.5 to 2.8) -/

/-- An envelope from 0.0 to 1.0, or between two values, at a step. -/
def enveloped (lo hi : F) (step sps : Nat) : State :=
  { idle with
    patch := { Patch.initial with env := (Patch.initial.env.set 0 lo).set 1 hi }
    render := { Render.initial with step := step, sps := sps } }

theorem test_crushOff :
    after (exec (.crushOff 0x41480000#32) idle) (fun s => (s.dp.v, s.render.cnt)) = some (0x41480000#32, 0) := by decide +kernel

theorem test_crushHold :
    after (exec (.crushHold 0x42C80000#32) { idle with render := { Render.initial with cl := 3, cnt := 0, val := 0x40E00000#32 } })
        (fun s => (s.dp.v, s.render.cnt)) = some (0x42C80000#32, 1) ∧
      after (exec (.crushHold 0xC2C80000#32) { idle with render := { Render.initial with cl := 3, cnt := 2, val := 0x42C80000#32 } })
        (fun s => (s.dp.v, s.render.cnt)) = some (0x42C80000#32, 0) := by decide +kernel

theorem test_envInterp :
    [0, 1, 47, 93].map (fun k => after (exec .envInterp (enveloped 0x00000000#32 0x3F800000#32 k 94)) (fun s => s.dp.e)) =
      [some 0#32, some 0x3C2E4C41#32, some 0x3F000000#32, some 0x3F7D46CF#32] := by decide +kernel

theorem test_envInterp_thirds :
    [0, 1, 2].map (fun k => after (exec .envInterp (enveloped 0x3E800000#32 0x3F400000#32 k 3)) (fun s => s.dp.e)) =
      [some 0x3E800000#32, some 0x3ED55556#32, some 0x3F155556#32] := by decide +kernel

theorem test_envHold :
    after (exec .envHold { idle with patch := { Patch.initial with env := Patch.initial.env.set 465 0x3E000000#32 } })
      (fun s => s.dp.e) = some 0x3E000000#32 := by decide +kernel

theorem test_envAdvance :
    [(0, 92), (464, 93), (465, 93)].map
        (fun c => after (exec .envAdvance { idle with render := { Render.initial with seg := c.1, step := c.2, sps := 94 } })
          (fun s => (s.render.seg, s.render.step))) =
      [some (0, 93), some (465, 0), some (465, 0)] := by decide +kernel

theorem test_postScale :
    after (exec (.postScale 0x3F800000#32 0x42C80000#32) { idle with render := { Render.initial with dcv := 0xC3000000#32 } }) (fun s => s.dp.s) = some 0x43640000#32 ∧
      after (exec (.postScale 0x3F000000#32 0x42C80000#32) idle) (fun s => s.dp.s) = some 0x42480000#32 := by decide +kernel

theorem test_quantWrap :
    [0x42FFCCCD#32, 0xC3008000#32, 0x43000000#32, 0x43480000#32, 0xC3480000#32, 0x43640000#32, 0x437FE666#32, 0xBF333333#32, 0x80000000#32, 0x4F32D05E#32,
        0x7F800000#32, 0xFF800000#32, 0x7FC00000#32].map
        (fun x => after (exec (.quantWrap x) idle) (fun s => s.dp.q)) =
      [some 0x7F#8, some 0x80#8, some 0x80#8, some 0xC8#8, some 0x38#8, some 0xE4#8, some 0xFF#8, some 0x00#8, some 0x00#8, some 0x00#8, some 0#8, some 0#8, some 0#8] := by decide +kernel

theorem test_quantClamp :
    [0x42FFCCCD#32, 0xC3008000#32, 0x43000000#32, 0x43480000#32, 0xC3480000#32, 0x43640000#32, 0x437FE666#32, 0xBF333333#32, 0x80000000#32, 0x4F32D05E#32,
        0x7F800000#32, 0xFF800000#32, 0x7FC00000#32].map
        (fun x => after (exec (.quantClamp x) idle) (fun s => s.dp.q)) =
      [some 0x7F#8, some 0x80#8, some 0x7F#8, some 0x7F#8, some 0x80#8, some 0x7F#8, some 0x7F#8, some 0x00#8, some 0x00#8, some 0x7F#8, some 0x7F#8, some 0x80#8, some 0#8] := by decide +kernel

/-! ## Witnesses: for every statement with hypotheses, a state and operands that meet them, clause by clause -/

theorem test_paramsOk : paramsOk tcfg :=
  ⟨by decide +kernel, by decide +kernel, by decide +kernel, by decide +kernel, by decide +kernel, by decide, fun _ h => by cases h⟩

theorem test_idle_dials : ∀ i : Fin 50, inRange (dialLow idle.cfg.dialPolarity[i]) idle.patch.dial[i] = true := by
  decide +kernel

theorem test_quarter_dials : ∀ i : Fin 50, inRange (dialLow running.cfg.dialPolarity[i]) running.patch.dial[i] = true := by
  decide +kernel

theorem test_envelope_replicate (x : F) (h : inRange fZero x = true) (k : Fin 466) :
    inRange fZero ((Vector.replicate 466 x)[k]) = true := by
  simpa only [Fin.getElem_fin, Vector.getElem_replicate] using h

theorem test_idle_envelope (k : Fin 466) : inRange fZero idle.patch.env[k] = true :=
  test_envelope_replicate fZero (by decide) k

theorem test_running_envelope (k : Fin 466) : inRange fZero running.patch.env[k] = true :=
  test_envelope_replicate fOne (by decide) k

theorem test_section_length : (1 ≤ idle.patch.sectionLength.toNat ∧ idle.patch.sectionLength.toNat ≤ 33) ∧
    1 ≤ running.patch.sectionLength.toNat ∧ running.patch.sectionLength.toNat ≤ 33 := by decide

theorem test_counters : idle.countersOk ∧ idle.progressOk ∧ running.countersOk ∧ running.progressOk := by
  unfold State.countersOk State.progressOk
  decide +kernel

theorem test_idle_inv : State.Inv idle :=
  ⟨test_paramsOk, ⟨test_idle_dials, test_idle_envelope, test_section_length.1⟩, test_counters.1, test_counters.2.1,
    by decide, rfl⟩

theorem test_running_inv : State.Inv running :=
  ⟨test_paramsOk, ⟨test_quarter_dials, test_running_envelope, test_section_length.2⟩, test_counters.2.2.1,
    test_counters.2.2.2, by decide, rfl⟩

theorem test_witness_DecodeInvertsEncode :
    wellFormed (.rdBuf32 0x1FFFFC#21) = true ∧ encode (.rdBuf32 0x1FFFFC#21) = some (.bus 0x0BFFFFC#25 0#32) ∧
      wellFormed (.shapeTri 9#32 64) = true ∧ encode (.shapeTri 9#32 64) = some (.band 4#3 9#32 64 fZero) := by decide +kernel

theorem test_witness_StepRunsTheDecodedOperation :
    ({ idle with agenda := [.host 0x1800004#25 1#32, .engine] } : State).agenda = .host 0x1800004#25 1#32 :: [.engine] ∧
      ({ idle with agenda := [.engine] } : State).agenda = .engine :: [] ∧ idle.agenda = [] ∧ idle.busy = false := by decide +kernel

theorem test_witness_BufferReadsReturnLanes :
    (4, Instr.rdBuf32 0#21) ∈ [(1, Instr.rdBuf8 0#21), (2, .rdBuf16 0#21), (4, .rdBuf32 0#21)] ∧
      (1 < 4 ∧ rendered.busy = false ∧ (0#21).toNat + 1 < rendered.length.toNat ∧ rendered.bufByte 1 = 0x64#8) ∧
      (3 < 4 ∧ (4#21).toNat + 0 = rendered.length.toNat) ∧ 3 < 4 ∧ ¬3 < 2 := by decide +kernel

theorem test_witness_ReadsHaveNoSideEffects :
    (0x0800F44#25).getLsbD 24 = false ∧ (0x0800F48#25).getLsbD 24 = false := by decide +kernel

theorem test_witness_ControlWriteStartsWhenIdle :
    (0xFFFFFFFE#32).getLsbD 0 = false ∧ (1#32).getLsbD 0 = true ∧ running.busy = true ∧ idle.busy = false := by decide +kernel

theorem test_witness_SectionLengthWraps :
    running.busy = true ∧ idle.busy = false := by decide +kernel

theorem test_witness_DialWriteClamps :
    (0#32 = if idle.cfg.dialPolarity[(0 : Fin 50)] = .bi then 0xBF800000#32 else 0#32) ∧
      (0xBF800000#32 = if idle.cfg.dialPolarity[(48 : Fin 50)] = .bi then 0xBF800000#32 else 0#32) ∧
      running.busy = true ∧ idle.busy = false ∧ isNaN 0x7F800001#32 = true ∧ flt 0x80000001#32 0#32 = true ∧
      flt 0xBF800001#32 0xBF800000#32 = true ∧ fgt 0x3F800001#32 0x3F800000#32 = true ∧
      inRange 0#32 0x80000000#32 = true ∧ inRange 0#32 0x3F800000#32 = true ∧ inRange 0xBF800000#32 0xBF800000#32 = true := by decide +kernel

theorem test_witness_EnvelopeWriteClamps :
    running.busy = true ∧ idle.busy = false ∧ isNaN 0xFFC00000#32 = true ∧ flt 0xFF800000#32 0#32 = true ∧
      fgt 0x7F800000#32 0x3F800000#32 = true ∧ inRange 0#32 0#32 = true ∧ inRange 0#32 0x3F800000#32 = true := by decide +kernel

theorem test_witness_SlotWriteStoresSelectors :
    running.busy = true ∧ idle.busy = false := by decide +kernel

theorem test_witness_BusyChecksIgnoreWrites :
    running.busy = true ∧ Instr.wrDuration 1#32 ∈ [Instr.wrConfig 1#32, .wrDuration 1#32, .wrSectionLength 1#32] ∧
      (1#32).getLsbD 0 = true ∧ (0#32).getLsbD 0 = false ∧
      Instr.wrIrqEn 1#32 ∈ [Instr.wrStatus 1#32, .wrIrqEn 1#32, .wrId 1#32, .wrLength 1#32, .wrProgress 1#32] := by decide +kernel

/-- The causes of ERR_ADDR (R242), and no cause. -/
def errAddrCause (T : Desc) : Bool :=
  let size := (T.extractLsb' 22 2).toNat
  let addr := (T.extractLsb' 0 22).toNat
  decide (size = 3 ∨ addr % 2 ^ size ≠ 0 ∨ (addr < 0x200000 ∧ size ≠ 2) ∨
    (addr < 0x200000 ∧ registerAddress addr = false) ∨ (0x200000 ≤ addr ∧ T.getLsbD 24 = true))

/-- The causes of ERR_BUSY (R243) while a render runs. -/
def errBusyCause (T : Desc) (d : Word) : Bool :=
  let addr := (T.extractLsb' 0 22).toNat
  decide (T.extractLsb' 22 3 = 0b110#3 ∧ addr % 4 = 0 ∧
    (addr = 0x0C ∨ addr = 0x10 ∨ (0x100 ≤ addr ∧ addr ≤ 0x1C4) ∨ (0x200 ≤ addr ∧ addr ≤ 0x224) ∨ addr = 0x240 ∨
      (0x800 ≤ addr ∧ addr ≤ 0xF44) ∨ (addr = 0x04 ∧ d.getLsbD 0 = true)))

theorem test_witness_ErrAddrHasExactlyItsCauses :
    [0x0C00000#25, 0x0600001#25, 0x05FFFFE#25, 0x0800020#25, 0x08000FC#25, 0x08001C8#25, 0x0800228#25, 0x0800244#25,
        0x08007FC#25, 0x0800F48#25, 0x09FFFFC#25, 0x1200000#25, 0x1BFFFFC#25].all errAddrCause = true ∧
      [0x080001C#25, 0x0800100#25, 0x08001C4#25, 0x0800200#25, 0x0800224#25, 0x0800240#25, 0x0800800#25, 0x0800F44#25,
        0x0200000#25, 0x0BFFFFC#25, 0x1800008#25].any errAddrCause = false ∧
      exec .sampleStep running = .next running.sampleStep ∧ ({ running with agenda := [.reset] } : State).agenda = .reset :: [] ∧
      step { running with agenda := [.reset] } = .next (State.hardwareReset running) := ⟨by decide +kernel, by decide +kernel, rfl, rfl, rfl⟩

theorem test_witness_ErrBusyHasExactlyItsCauses :
    running.busy = true ∧
      [0x180000C#25, 0x1800010#25, 0x1800100#25, 0x18001C4#25, 0x1800200#25, 0x1800224#25, 0x1800240#25, 0x1800800#25,
        0x1800F44#25, 0x1800004#25].all (fun T => errBusyCause T 1#32) = true ∧
      [0x1800004#25, 0x1800008#25, 0x1800014#25, 0x180001C#25, 0x18001C8#25, 0x1800228#25, 0x1800F48#25, 0x1A00000#25,
        0x0800100#25].any (fun T => errBusyCause T 0#32) = false ∧
      exec .sampleStep running = .next running.sampleStep ∧ ({ running with agenda := [.reset] } : State).agenda = .reset :: [] ∧
      step { running with agenda := [.reset] } = .next (State.hardwareReset running) := ⟨by decide +kernel, by decide +kernel, by decide +kernel, rfl, rfl, rfl⟩

theorem test_witness_RenderStartResetsAndLatches :
    paramsOk idle.cfg ∧ after (exec .renderStart idle) (fun t => t.length.toNat) = some 0 ∧
      after (exec .renderStart { idle with duration := 1#32 }) (fun t => t.length.toNat) = some 44100 := ⟨test_paramsOk, by decide +kernel⟩

theorem test_witness_ZeroLengthRenderCompletesAtOnce :
    idle.busy = false ∧ idle.duration = 0#32 ∧ (1#32).getLsbD 0 = true := by decide +kernel

theorem test_witness_CompletionRaisesTheInterrupt :
    ({ idle with duration := 1#32 } : State).totalSamples ≠ 0 := by decide +kernel

theorem test_witness_SampleStepFollowsItsPseudocode :
    idle.busy = false ∧ running.busy = true := by decide +kernel

theorem test_witness_SampleStepChangesOnlyTheRender :
    running.busy = true ∧ running.progress + 1#32 ≠ running.length ∧
      ({ running with progress := 2#32 } : State).progress + 1#32 = running.length := by decide +kernel

theorem test_witness_SineLookupIsMaskedAndSymmetric :
    (0 < 1 ∧ 1 < 32768) ∧ (0 < 32767 ∧ 32767 < 32768) ∧ 32768 ≤ 32768 := by decide +kernel

/-- A block whose harmonic count rises at 1.5, at 8.0 and at 2.0, with HMAX 4. -/
def stepped : State :=
  { idle with cfg := { idle.cfg with
      hmax := 4
      harmonics := .steps ⟨[0x3FC00000#32, 0x41000000#32, 0x40000000#32], 1, 4, 2⟩ } }

theorem test_harmonicCount_steps :
    [0x3FBFFFFF#32, 0x3FC00000#32, 0x40E00000#32, 0x41000000#32, 0x7FC00000#32, 0x7F800000#32, 0xFF800000#32].map
        (fun r => after (exec (.harmonicCount r) stepped) (fun s => s.dp.n)) =
      [some 1, some 2, some 3, some 4, some 1, some 4, some 2] := by decide +kernel

theorem test_stepped_paramsOk : paramsOk stepped.cfg := by
  obtain ⟨a, b, c, d, e, -⟩ := test_paramsOk
  exact ⟨a, b, c, d, e, by decide, fun t h => by cases h; unfold harmonicStepsOk; decide⟩

theorem test_witness_HarmonicCountIsTheBoundedFloor :
    paramsOk idle.cfg ∧ paramsOk stepped.cfg ∧ idle.cfg.harmonics = .standard ∧
      isNaN 0x7F800001#32 = true ∧ isInf 0xFF800000#32 = true ∧ isInf 0x7F800000#32 = true ∧
      isFinite 0x3F800000#32 = true ∧ isFinite 0x7F7FFFFF#32 = true ∧ fle 0x3F800000#32 0x7F7FFFFF#32 = true ∧
      exec (.harmonicCount 0x3F800000#32) stepped = .next (stepped.setDp { stepped.dp with n := 1 }) ∧
      exec (.harmonicCount 0x7F7FFFFF#32) stepped = .next (stepped.setDp { stepped.dp with n := 4 }) := ⟨test_paramsOk, test_stepped_paramsOk, by decide +kernel, by decide +kernel, by decide +kernel, by decide +kernel,
    by decide +kernel, by decide +kernel, by decide +kernel, rfl, rfl⟩

theorem test_witness_BandCountsTheThresholds :
    isNaN 0x7FC00000#32 = true ∧ isInf 0x7F800000#32 = true ∧ isFinite 0x3E2AAAAB#32 = true := by decide +kernel

theorem test_witness_OneHarmonicIsThePlainSine :
    (1 = 1 ∨ 1 = 2) ∧ (2 = 1 ∨ 2 = 2) := by decide +kernel

theorem test_witness_ImpulseSumsTheGatedPartials :
    isNaN 0x7FC00000#32 = true := by decide +kernel

theorem test_witness_WeightsAreCorrectlyRounded :
    1 ≤ 1 ∧ 1 ≤ 31 := by decide +kernel

theorem test_witness_SquishIsBounded :
    isNaN 0x7FC00000#32 = true ∧ isNaN 0x7F800000#32 = false ∧ isZero 0x80000000#32 = true ∧ isInf 0xFF800000#32 = true ∧
      isFinite 0x00000001#32 = true ∧ isFinite 0x7F7FFFFF#32 = true := by decide +kernel

theorem test_witness_SelectorsChangeOneParameter :
    0#32 = idle.dp.o[(#v[7, 7, 3, 6, 6, 2, 5, 5, 1, 4] : Vector (Fin 8) 10)[(8 : Fin 10)]] ∧
      exec (.squish 0#32) idle = .next { idle with dp := { idle.dp with y := 0#32 } } := ⟨by decide +kernel, rfl⟩

theorem test_witness_PhaseIncrementRoundsTheQuotient :
    isNaN 0x7FC00000#32 = true ∧ isInf 0xFF800000#32 = true ∧ isFinite 0x43DC0000#32 = true ∧ paramsOk idle.cfg := ⟨by decide +kernel, by decide +kernel, by decide +kernel, test_paramsOk⟩

theorem test_witness_BiquadSectionsFollowTheirRules :
    paramsOk idle.cfg ∧ ∀ k : Fin 5, idle.patch.dial[32 + 5 * (2 : Fin 3).val + k.val]'(by omega) = 0#32 := ⟨test_paramsOk, by decide +kernel⟩

theorem test_witness_CascadeRunsItsSectionsInOrder :
    (∀ j : Fin 3, idle.bypassed j = true) ∧ (filtered Biquad.zero).bypassed 1 = true := by decide +kernel

theorem test_witness_EnvelopeInterpolatesAndHolds :
    idle.render.seg < 465 ∧ ({ idle with render := { Render.initial with seg := 464 } } : State).render.seg < 465 ∧
      (let s : State := { idle with render := { Render.initial with sps := 1 } };
        s.patchOk ∧ s.render.step = 0 ∧ 1 ≤ s.render.sps ∧ s.render.sps < 2 ^ 24) := ⟨by decide +kernel, by decide +kernel, test_idle_inv.2.1, by decide +kernel⟩

theorem test_witness_EnvelopeAdvancesEverySegment :
    (enveloped 0#32 fOne 93 94).render.seg ≤ 465 ∧ (enveloped 0#32 fOne 93 94).render.step < (enveloped 0#32 fOne 93 94).render.sps := by decide +kernel

theorem test_witness_CrushHoldsAlignedGroups :
    0 < ({ idle with render := { Render.initial with cl := 1 } } : State).render.cl ∧ idle.render.cnt = 0 := by decide +kernel

theorem test_witness_PostScaleSubtractsTheOffset :
    isZero 0x80000000#32 = true ∧ isFinite 0x7F7FFFFF#32 = true ∧ isFinite idle.render.dcv = true := by decide +kernel

theorem test_witness_WrappingQuantizerTruncates :
    isFinite 0x7F800000#32 = false ∧ isFinite 0xCF000000#32 = true ∧ isFinite 0x4F000000#32 = true := by decide +kernel

theorem test_witness_ClampingQuantizerSaturates :
    isNaN 0xFFC00000#32 = true ∧ isInf 0xFF800000#32 = true ∧ isFinite 0x43000000#32 = true := by decide +kernel

theorem test_witness_SumsAreCorrectlyRounded :
    isFinite 0x7F7FFFFF#32 = true ∧ isFinite 0x00000001#32 = true := by decide +kernel

theorem test_witness_ProductsAreCorrectlyRounded :
    isFinite 0x7F7FFFFF#32 = true ∧ isFinite 0x00000001#32 = true := by decide +kernel

theorem test_witness_QuotientsAreCorrectlyRounded :
    isFinite 0x7F7FFFFF#32 = true ∧ isFinite 0x00000001#32 = true ∧ isZero 0x00000001#32 = false := by decide +kernel

theorem test_witness_ComparisonsFollowValues :
    isFinite 0x80000000#32 = true ∧ isFinite 0x7F7FFFFF#32 = true ∧ isNaN 0x7F800001#32 = true := by decide +kernel

theorem test_witness_EveryStepKeepsTheInvariant :
    State.Inv running ∧ step running = .next running.sampleStep := ⟨test_running_inv, rfl⟩

theorem test_witness_RunningRenderCompletes :
    running.busy = true ∧ running.agenda = [] ∧ running.progress.toNat < running.length.toNat ∧
      1 < running.length.toNat - running.progress.toNat := by decide +kernel

/-- An idle block whose next render has two samples. -/
def shortClip : State := { idle with cfg := { idle.cfg with maxClip := 2 }, duration := 1#32 }

theorem test_witness_HostAccessesDoNotDisturbARender :
    running.busy = true ∧ (∀ e ∈ [Event.host 0x1800100#25 0#32, .engine, .host 0x1800008#25 0xE#32], e ≠ .reset) ∧
      running.progress.toNat + engineTurns [.host 0x1800100#25 0#32, .engine, .host 0x1800008#25 0xE#32] < running.length.toNat ∧
      shortClip.busy = false ∧ exec .renderStart shortClip = .next shortClip.renderStart ∧
      (∀ e ∈ [Event.host 0x1800100#25 0#32, .engine, .host 0x1800004#25 1#32], e ≠ .reset) ∧
      engineTurns [.host 0x1800100#25 0#32, .engine, .host 0x1800004#25 1#32] + 1 = shortClip.renderStart.length.toNat := ⟨by decide +kernel, by decide +kernel, by decide +kernel, rfl, rfl, by decide +kernel, by decide +kernel⟩

theorem test_witness_RendersAreDeterministic :
    State.Inv idle ∧ State.Inv { idle with doneIe := true } ∧ idle.busy = false ∧
      exec .renderStart idle = .next idle.renderStart := ⟨test_idle_inv, test_idle_inv, rfl, rfl⟩

theorem test_witness_RendersNeverWriteThePatch :
    (∀ (T : Desc) (d : Word), Instr.sampleStep ≠ decodeBus T d) ∧
      exec .renderStart shortClip = .next shortClip.renderStart := by
  refine ⟨fun T d h => ?_, rfl⟩
  rcases decodeBus_cases T d with ⟨-, e⟩ | ⟨r, -, -, e⟩ | ⟨w, i, -, -, -, e⟩ <;> rw [e] at h <;> revert h <;>
    cases descWe T <;> first | (cases r <;> simp [writeOf]) | (cases w <;> simp [readOf]) | simp

theorem test_witness_CompletedBufferStaysReadable :
    rendered.busy = false ∧ ¬((0x1800004#25 : Desc) = 0x1800004#25 ∧ (0#32).getLsbD 0 = true) ∧
      ¬((0x1800008#25 : Desc) = 0x1800004#25 ∧ (2#32).getLsbD 0 = true) := by decide +kernel

theorem test_witness_ResetTransitionAbortsAndClears :
    ({ running with agenda := [.reset] } : State).agenda = .reset :: [] := by decide +kernel

theorem test_witness_ZeroPatchRendersSilence :
    State.Inv { running with patch := Patch.initial } ∧ running.busy = true ∧ (∀ i : Fin 50, Patch.initial.dial[i] = 0#32) ∧
      (∀ k : Fin 10, Patch.initial.slot[k] = 0#6) ∧ running.render.cl = 0 ∧ isZero running.render.dcv = true := by
  obtain ⟨a, -, c, d, e, g⟩ := test_running_inv
  exact ⟨⟨a, test_idle_inv.2.1, c, d, e, g⟩, by decide +kernel, by decide +kernel, by decide +kernel, by decide +kernel, by decide +kernel⟩

end Sys2Proof.Tests
end

section
/-! PROOF. What keeps the invariant of the block, operation by operation, up to one transition (O52, O53, O4). -/

open Sys2Proof

namespace Sys2Proof.Machine

/-! ## The reset state (R9, R47, R260) -/

/-- Every dial range of R22 holds +0.0. -/
theorem inRange_dialLow_zero (p : Polarity) : inRange (dialLow p) fZero = true := by
  cases p <;> decide

theorem isFinite_asFinite (x : F) : isFinite (asFinite x) = true := by
  unfold asFinite
  split
  · assumption
  · decide

theorem isNaN_impWeight (k : Nat) : isNaN (impWeight k) = false := by
  induction k with
  | zero =>
    rw [impWeight]
    split
    · decide
    · rename_i h
      simpa using h
  | succ k ih =>
    rw [impWeight]
    split
    · exact isNaN_of_fle_left ‹_›
    · exact ih

/-- The free weights are brought into the order of R9. -/
theorem impWeight_succ_le (k : Nat) : fle (impWeight (k + 1)) (impWeight k) = true := by
  rw [impWeight]
  split
  · assumption
  · exact fle_refl (isNaN_impWeight k)

theorem resetParams_ok : paramsOk resetParams := by
  refine ⟨by decide, by decide, fun i => ?_, fun k => ?_, fun k => ?_, by decide, fun _ h => by cases h⟩
  · simpa [resetParams] using isFinite_asFinite _
  · simp [resetParams]
  · simpa [resetParams, fge] using impWeight_succ_le k

theorem State.reset_countersOk : State.reset.countersOk := by
  unfold State.countersOk
  decide

theorem State.reset_sectionLength :
    1 ≤ State.reset.patch.sectionLength.toNat ∧ State.reset.patch.sectionLength.toNat ≤ 33 := by decide

/-- A block whose registers have their reset values meets the invariant in every valid configuration, with any canonical
buffer. -/
theorem State.reset_inv {c : Params} {m : Memory} (hc : paramsOk c) (hm : Memory.wf m) (v : Word) (l : List Event) :
    State.Inv { State.reset with cfg := c, buf := m, rdata := v, agenda := l } := by
  refine ⟨hc, ⟨fun i => ?_, fun k => ?_, reset_sectionLength⟩, reset_countersOk, ?_, hm, rfl⟩
  · simpa [State.reset, Patch.initial] using inRange_dialLow_zero c.dialPolarity[i]
  · simpa [State.reset, Patch.initial, dialLow] using inRange_dialLow_zero .uni
  · exact ⟨Nat.zero_le _, rfl, le_refl _, fun h => by cases h⟩

/-! ## The named updates -/

namespace State.Inv

variable {s : State}

/-! The invariant does not speak of the returned data, the error flags, CONFIG, DURATION, IRQ_EN and the schedule. -/

theorem respond (h : s.Inv) (v : Word) : (s.respond v).Inv := h
theorem setErrAddr (h : s.Inv) : s.setErrAddr.Inv := h
theorem setErrBusy (h : s.Inv) : s.setErrBusy.Inv := h
theorem setQmode (h : s.Inv) (b : Bool) : (s.setQmode b).Inv := h
theorem setDuration (h : s.Inv) (v : Word) : (s.setDuration v).Inv := h
theorem setDoneIe (h : s.Inv) (b : Bool) : (s.setDoneIe b).Inv := h
theorem setAgenda (h : s.Inv) (l : List Event) : (s.setAgenda l).Inv := h

theorem clearStatus (h : s.Inv) (v : Word) : (s.clearStatus v).Inv := by
  obtain ⟨hcfg, hpatch, hcnt, ⟨hlen, htot, hprog, hbusy⟩, hbuf, hdp⟩ := h
  refine ⟨hcfg, hpatch, hcnt, ⟨hlen, htot, hprog, fun hb => ?_⟩, hbuf, hdp⟩
  obtain ⟨hlt, hsps, hdone⟩ := hbusy hb
  exact ⟨hlt, hsps, by simp [hdone]⟩

theorem patchOk (h : s.Inv) : s.patchOk := h.2.1

/-- Only the patch differs, and it is valid. -/
theorem with_patch (h : s.Inv) {p : Patch} (hp : State.patchOk { s with patch := p }) : State.Inv { s with patch := p } := by
  obtain ⟨hcfg, -, hcnt, hprog, hbuf, hdp⟩ := h
  exact ⟨hcfg, hp, hcnt, hprog, hbuf, hdp⟩

theorem setDial (h : s.Inv) (i : Fin 50) (v : Word) :
    (s.setDial i (clampWrite (dialLow s.cfg.dialPolarity[i]) v)).Inv := by
  obtain ⟨hdial, henv, hsec⟩ := h.patchOk
  refine h.with_patch ⟨fun k => ?_, henv, hsec⟩
  have hnew := clampWrite_bounds (dialLow_le s.cfg.dialPolarity[i]) v
  by_cases hk : i = k
  · subst hk
    simpa [inRange] using hnew
  · have hne : i.val ≠ k.val := fun e => hk (Fin.ext e)
    simpa [Vector.getElem_set_ne, hne] using hdial k

theorem setEnv (h : s.Inv) (i : Fin 466) (v : Word) : (s.setEnv i (clampWrite fZero v)).Inv := by
  obtain ⟨hdial, henv, hsec⟩ := h.patchOk
  refine h.with_patch ⟨hdial, fun k => ?_, hsec⟩
  have hnew := clampWrite_bounds (lo := fZero) (by decide) v
  by_cases hk : i = k
  · subst hk
    simpa [inRange] using hnew
  · have hne : i.val ≠ k.val := fun e => hk (Fin.ext e)
    simpa [Vector.getElem_set_ne, hne] using henv k

theorem setSlot (h : s.Inv) (k : Fin 10) (w : BitVec 6) : (s.setSlot k w).Inv := h

theorem setSectionLength (h : s.Inv) (v : Word) : (s.setSectionLength (wrapSection v)).Inv := by
  obtain ⟨hdial, henv, -⟩ := h.patchOk
  have hw := wrapSection_toNat v
  exact h.with_patch ⟨hdial, henv, by dsimp only; omega, by dsimp only; omega⟩

/-- A busy-checked write keeps the invariant if its effect does in an idle block. -/
theorem busyChecked (h : s.Inv) {f : State → State} (hf : s.busy = false → (f s).Inv) : (s.busyChecked f).Inv := by
  cases hb : s.busy with
  | true => rw [State.busyChecked_of_busy hb]; exact h.setErrBusy
  | false => rw [State.busyChecked_of_idle hb]; exact hf hb

/-! ## Render start, sample step and reset -/

/-- The clip capacity fits LENGTH (R9). -/
theorem maxClip_le (h : s.Inv) : s.cfg.maxClip ≤ 2 ^ 21 := by
  obtain ⟨⟨-, ⟨-, hclip⟩, -⟩, -⟩ := h
  exact hclip

theorem renderStart (h : s.Inv) (hb : s.busy = false) : s.renderStart.Inv := by
  have hclip := h.maxClip_le
  obtain ⟨hcfg, hpatch, -, -, hbuf, hdp⟩ := h
  have htotal := s.totalSamples_le
  have hsps := samplesPerSegment_bounds s.totalSamples
  have hlen : (BitVec.ofNat 32 s.totalSamples).toNat = s.totalSamples := by
    rw [BitVec.toNat_ofNat]
    omega
  refine ⟨hcfg, hpatch, ⟨s.startSegment_le, ?_, .inl hsps.1, s.crushLength_le, ?_⟩, ⟨?_, hlen, Nat.zero_le _, ?_⟩, hbuf, hdp⟩
  · show samplesPerSegment s.totalSamples ≤ 2 ^ 21
    omega
  · show 0 < s.crushLength ∨ 0 = 0 ∧ s.crushLength = 0
    omega
  · exact hlen.trans_le htotal
  · intro hrun
    have hpos : s.totalSamples ≠ 0 := fun h0 => by simp [State.renderStart, h0, hb] at hrun
    refine ⟨?_, hsps.1, decide_eq_false hpos⟩
    show 0 < (BitVec.ofNat 32 s.totalSamples).toNat
    omega

theorem sampleStep (h : s.Inv) : s.sampleStep.Inv := by
  cases hb : s.busy with
  | false => rwa [State.sampleStep_of_idle hb]
  | true =>
    obtain ⟨hcfg, hpatch, ⟨hseg, hsps, hstep, hcl, hcnt⟩, ⟨hlen, htot, -, hbusy⟩, hbuf, -⟩ := h
    obtain ⟨hlt, hspos, hdone⟩ := hbusy hb
    obtain ⟨ph, bq, seg, step, cnt, val, q, e, hseg', hstep', hcnt0, hcnt'⟩ := State.sampleStep_of_busy hb
    have hnext : (s.progress + 1#32).toNat = s.progress.toNat + 1 := by
      have := s.length.isLt
      rw [BitVec.toNat_add]
      simp only [BitVec.toNat_ofNat]
      omega
    rw [e]
    refine ⟨hcfg, hpatch, ⟨hseg' hseg, hsps, .inl (hstep' ?_), hcl, ?_⟩, ⟨hlen, htot, ?_, ?_⟩,
      Memory.wf_write hbuf _ _, rfl⟩
    · omega
    · rcases hcnt with hcnt | ⟨hc, h0⟩
      · exact .inl (hcnt' (by omega))
      · exact .inr ⟨(hcnt0 h0).trans hc, h0⟩
    · dsimp only
      omega
    · intro hrun
      have hne : s.progress + 1#32 ≠ s.length := of_decide_eq_true hrun
      have hne' : (s.progress + 1#32).toNat ≠ s.length.toNat := fun e => hne (BitVec.eq_of_toNat_eq e)
      exact ⟨by dsimp only; omega, hspos, by simp [hdone, hne]⟩

theorem hardwareReset (h : s.Inv) : s.hardwareReset.Inv := by
  obtain ⟨hcfg, -, -, -, hbuf, -⟩ := h
  exact State.reset_inv hcfg hbuf s.rdata s.agenda

end State.Inv

/-! ## Operations -/

/-- The operation completes in a state that meets the invariant. -/
def InvAfter (o : Result State) : Prop := ∃ t : State, o = .next t ∧ t.Inv

theorem invAfter_next {t : State} (h : t.Inv) : InvAfter (.next t) := ⟨t, rfl, h⟩

theorem InvAfter.inv {o : Result State} {t : State} (h : InvAfter o) (e : o = .next t) : t.Inv := by
  obtain ⟨u, hu, hinv⟩ := h
  cases hu.symm.trans e
  exact hinv

variable {s : State}

/-- Every register write keeps the invariant (R212 to R222). -/
theorem exec_writeOf_inv (h : s.Inv) (r : RegName) (v : Word) : InvAfter (exec (writeOf r v) s) := by
  cases r with
  | id => exact invAfter_next h
  | ctrl =>
    refine invAfter_next ?_
    split
    · exact h.busyChecked h.renderStart
    · exact h
  | status => exact invAfter_next (h.clearStatus v)
  | config => exact invAfter_next (h.busyChecked fun _ => h.setQmode _)
  | duration => exact invAfter_next (h.busyChecked fun _ => h.setDuration v)
  | length => exact invAfter_next h
  | progress => exact invAfter_next h
  | irqEn => exact invAfter_next (h.setDoneIe _)
  | dial i => exact invAfter_next (h.busyChecked fun _ => h.setDial i v)
  | slot k => exact invAfter_next (h.busyChecked fun _ => h.setSlot k _)
  | sectionLength => exact invAfter_next (h.busyChecked fun _ => h.setSectionLength v)
  | env k => exact invAfter_next (h.busyChecked fun _ => h.setEnv k v)

/-- Every buffer read keeps the invariant (R223). -/
theorem exec_readOf_inv (h : s.Inv) (w : Width) (i : BitVec 21) : InvAfter (exec (readOf w i) s) := by
  cases w <;> exact invAfter_next (h.respond _)

/-- Every transaction keeps the invariant: an illegal access, or a read or write of a register or of the buffer (R93). -/
theorem exec_decodeBus_inv (h : s.Inv) (T : Desc) (d : Word) : InvAfter (exec (decodeBus T d) s) := by
  rcases decodeBus_cases T d with ⟨-, e⟩ | ⟨r, -, -, e⟩ | ⟨w, i, -, -, -, e⟩ <;> rw [e]
  · refine invAfter_next ?_
    split
    · exact h.setErrAddr
    · exact h.setErrAddr.respond _
  · split
    · exact exec_writeOf_inv h r d
    · exact invAfter_next (h.respond _)
  · split
    · exact invAfter_next h.setErrAddr
    · exact exec_readOf_inv h w i

/-- Every event keeps the invariant (R6, R262). -/
theorem runEvent_inv (h : s.Inv) (e : Event) : InvAfter (runEvent e s) := by
  cases e with
  | host T d => exact exec_decodeBus_inv h T d
  | engine => exact invAfter_next h.sampleStep
  | reset => exact invAfter_next h.hardwareReset

/-! ## One transition -/

theorem step_of_nil (h : s.agenda = []) : step s = exec .sampleStep s := by
  simp only [step, nextTransition, h]

theorem step_of_cons {e : Event} {rest : List Event} (h : s.agenda = e :: rest) :
    step s = runEvent e (s.setAgenda rest) := by
  simp only [step, nextTransition, h]

theorem step_inv (h : s.Inv) : InvAfter (step s) := by
  cases ha : s.agenda with
  | nil => rw [step_of_nil ha]; exact invAfter_next h.sampleStep
  | cons e rest => rw [step_of_cons ha]; exact runEvent_inv (h.setAgenda rest) e

/-! ## The obligations -/

/-- Settles O53: every event of the schedule keeps the invariant, and so does the engine's turn when nothing is pending. -/
theorem everyStepKeepsTheInvariant : Obligations.EveryStepKeepsTheInvariant :=
  fun _ _ h hstep => (step_inv h).inv hstep

/-- Settles O52: the reset state is the block with its reset values in the configuration after reset, which R9 admits. -/
theorem resetStateMeetsInvariant : Obligations.ResetStateMeetsInvariant :=
  State.reset_inv resetParams_ok Memory.wf_nil 0#32 []

/-- Settles O4, by the head of the schedule. -/
theorem stepRunsTheDecodedOperation : Obligations.StepRunsTheDecodedOperation :=
  ⟨fun _ _ _ _ h => step_of_cons h, fun _ _ h => step_of_cons h, fun _ h => step_of_nil h,
    fun _ h => congrArg Host.Outcome.next (State.sampleStep_of_idle h)⟩

end Sys2Proof.Machine
end

section
/-! PROOF. The value of a binary32 pattern, and the rounding of a quotient to the nearest one (R13). -/

open Sys2Proof

namespace Sys2Proof.Machine

/-! ## Magnitudes in units of 2^-149 -/

/-- The units of a pattern without its sign. It is `fMagUnits` as a function of `fMag` (`fMagUnits_eq`), on every natural
number: beyond `infMag` it continues the format with an unbounded exponent, so that an overflow is a rounding too. -/
def magUnits (m : Nat) : Nat :=
  if m / 2 ^ 23 = 0 then m % 2 ^ 23 else (2 ^ 23 + m % 2 ^ 23) * 2 ^ (m / 2 ^ 23 - 1)

theorem fMagUnits_eq (x : F) : fMagUnits x = magUnits (fMag x) := by
  have hfrac : fFrac x = fMag x % 2 ^ 23 := by simp only [fFrac, fMag]; omega
  rw [fMagUnits, hfrac]
  rfl

/-- Within a binade, and up to the first pattern of the next one, the units rise by `2 ^ sh`. -/
theorem magUnits_binade {sh k : Nat} (hk : k ≤ 2 ^ 24) (hlow : sh = 0 ∨ 2 ^ 23 ≤ k) :
    magUnits (sh * 2 ^ 23 + k) = k * 2 ^ sh := by
  rcases Nat.lt_or_ge k (2 ^ 23) with h23 | h23
  · obtain rfl : sh = 0 := by omega
    rw [magUnits, if_pos (by omega)]
    omega
  · rcases Nat.lt_or_ge k (2 ^ 24) with h24 | h24
    · have hexp : (sh * 2 ^ 23 + k) / 2 ^ 23 = sh + 1 := by omega
      have hfrac : 2 ^ 23 + (sh * 2 ^ 23 + k) % 2 ^ 23 = k := by omega
      rw [magUnits, hexp, hfrac, if_neg (Nat.succ_ne_zero sh), Nat.add_sub_cancel]
    · obtain rfl : k = 2 ^ 24 := by omega
      have hexp : (sh * 2 ^ 23 + 2 ^ 24) / 2 ^ 23 = sh + 2 := by omega
      have hfrac : (sh * 2 ^ 23 + 2 ^ 24) % 2 ^ 23 = 0 := by omega
      rw [magUnits, hexp, hfrac, if_neg (Nat.succ_ne_zero _), show sh + 2 - 1 = sh + 1 from rfl]
      ring

/-- Every pattern lies in a binade. -/
theorem exists_binade (m : Nat) : ∃ sh k, m = sh * 2 ^ 23 + k ∧ k < 2 ^ 24 ∧ (sh = 0 ∨ 2 ^ 23 ≤ k) :=
  ⟨m / 2 ^ 23 - 1, m - (m / 2 ^ 23 - 1) * 2 ^ 23, by omega, by omega, by omega⟩

/-- Patterns are ordered as their magnitudes are. -/
theorem magUnits_strictMono : StrictMono magUnits := by
  refine strictMono_nat_of_lt_succ fun m => ?_
  obtain ⟨sh, k, rfl, hk, hlow⟩ := exists_binade m
  rw [Nat.add_assoc, magUnits_binade (by omega) hlow, magUnits_binade (by omega) (by omega)]
  exact Nat.mul_lt_mul_of_pos_right (Nat.lt_succ_self k) (by positivity)

theorem magUnits_zero : magUnits 0 = 0 := rfl

theorem magUnits_infMag : magUnits infMag = 2 ^ 24 * 2 ^ 253 := by
  rw [show infMag = 253 * 2 ^ 23 + 2 ^ 24 from rfl]
  exact magUnits_binade le_rfl (by omega)

theorem magUnits_largest : magUnits (infMag - 1) = (2 ^ 24 - 1) * 2 ^ 253 := by
  rw [show infMag - 1 = 253 * 2 ^ 23 + (2 ^ 24 - 1) from rfl]
  exact magUnits_binade (by omega) (by omega)

/-! ## Values with a sign -/

/-- A magnitude with its sign. -/
def signed (neg : Bool) (v : ℚ) : ℚ := if neg then -v else v

theorem fValue_eq (x : F) : fValue x = signed (fSign x) (magUnits (fMag x)) / 2 ^ 149 := by
  rw [fValue, fUnits, fMagUnits_eq, signed]
  split <;> push_cast <;> rfl

theorem abs_signed (neg : Bool) (v : ℚ) : |signed neg v| = |v| := by
  cases neg <;> simp [signed]

theorem signed_lt_zero {neg : Bool} {v : ℚ} (h : 0 < v) : signed neg v < 0 ↔ neg = true := by
  cases neg <;> simp [signed, h, h.le]

theorem abs_signed_sub_signed (neg : Bool) (v w : ℚ) : |signed neg v - signed neg w| = |v - w| := by
  cases neg
  · rfl
  · simp only [signed, if_true]
    rw [neg_sub_neg, abs_sub_comm]

theorem abs_signed_sub_signed_not (neg : Bool) {v w : ℚ} (hv : 0 ≤ v) (hw : 0 ≤ w) :
    |signed neg v - signed (!neg) w| = v + w := by
  cases neg
  · simp only [signed, Bool.not_false, if_true, Bool.false_eq_true, if_false, sub_neg_eq_add]
    exact abs_of_nonneg (by positivity)
  · simp only [signed, Bool.not_true, if_true, Bool.false_eq_true, if_false]
    rw [← neg_add', abs_neg]
    exact abs_of_nonneg (by positivity)

theorem signed_mul_signed (n₁ n₂ : Bool) (v w : ℚ) : signed n₁ v * signed n₂ w = signed (n₁ != n₂) (v * w) := by
  cases n₁ <;> cases n₂ <;> simp [signed]

theorem signed_div_signed (n₁ n₂ : Bool) (v w : ℚ) : signed n₁ v / signed n₂ w = signed (n₁ != n₂) (v / w) := by
  cases n₁ <;> cases n₂ <;> simp [signed, neg_div, div_neg]

theorem signed_div (neg : Bool) (v w : ℚ) : signed neg (v / w) = signed neg v / w := by
  cases neg <;> simp [signed, neg_div]

theorem signed_natAbs (u : ℤ) : signed (decide (u < 0)) (u.natAbs : ℚ) = u := by
  rw [signed, Nat.cast_natAbs]
  rcases lt_or_ge u 0 with h | h
  · simp [h, abs_of_neg h]
  · simp [not_lt.mpr h, abs_of_nonneg h]

/-! ## The nearest magnitude -/

/-- Of all patterns, with no bound on the exponent, `m` has the units nearest to `v`, ties to even. -/
def IsNearestMag (v : ℚ) (m : Nat) : Prop :=
  ∀ k : Nat, |v - magUnits m| ≤ |v - magUnits k| ∧ (|v - magUnits m| = |v - magUnits k| → k ≠ m → Even m)

section Neighbours

variable {v : ℚ} {m : Nat} (hlow : (magUnits m : ℚ) ≤ v) (hhigh : v ≤ magUnits (m + 1))
include hlow hhigh

/-- No pattern is nearer than the two neighbours, and only they are as near as they are. -/
theorem neighbours_nearest (k : Nat) :
    (v - magUnits m ≤ |v - magUnits k| ∧ (v - magUnits m = |v - magUnits k| → k = m)) ∨
      (magUnits (m + 1) - v ≤ |v - magUnits k| ∧ (magUnits (m + 1) - v = |v - magUnits k| → k = m + 1)) := by
  rcases Nat.lt_or_ge m k with hk | hk
  · have hU : (magUnits (m + 1) : ℚ) ≤ magUnits k := by exact_mod_cast magUnits_strictMono.monotone hk
    rw [abs_sub_comm, abs_of_nonneg (sub_nonneg.mpr (hhigh.trans hU))]
    refine .inr ⟨by linarith, fun e => magUnits_strictMono.injective ?_⟩
    have : (magUnits k : ℚ) = magUnits (m + 1) := by linarith
    exact_mod_cast this
  · have hU : (magUnits k : ℚ) ≤ magUnits m := by exact_mod_cast magUnits_strictMono.monotone hk
    rw [abs_of_nonneg (sub_nonneg.mpr (hU.trans hlow))]
    refine .inl ⟨by linarith, fun e => magUnits_strictMono.injective ?_⟩
    have : (magUnits k : ℚ) = magUnits m := by linarith
    exact_mod_cast this

theorem isNearestMag_lower (h : v - magUnits m < magUnits (m + 1) - v ∨ v - magUnits m = magUnits (m + 1) - v ∧ Even m) :
    IsNearestMag v m := by
  intro k
  rw [abs_of_nonneg (sub_nonneg.mpr hlow)]
  rcases neighbours_nearest hlow hhigh k with ⟨hle, heq⟩ | ⟨hle, -⟩
  · exact ⟨hle, fun e hne => absurd (heq e) hne⟩
  · rcases h with h | ⟨h, heven⟩
    · exact ⟨by linarith, fun e => by linarith⟩
    · exact ⟨by linarith, fun _ _ => heven⟩

theorem isNearestMag_upper
    (h : magUnits (m + 1) - v < v - magUnits m ∨ magUnits (m + 1) - v = v - magUnits m ∧ Even (m + 1)) :
    IsNearestMag v (m + 1) := by
  intro k
  rw [abs_sub_comm v, abs_of_nonneg (sub_nonneg.mpr hhigh)]
  rcases neighbours_nearest hlow hhigh k with ⟨hle, -⟩ | ⟨hle, heq⟩
  · rcases h with h | ⟨h, heven⟩
    · exact ⟨by linarith, fun e => by linarith⟩
    · exact ⟨by linarith, fun _ _ => heven⟩
  · exact ⟨hle, fun e hne => absurd (heq e) hne⟩

end Neighbours

/-! ## `roundRatio` -/

/-- The exponent offset at which `roundRatio` rounds. -/
def roundShift (num den : Nat) : Nat := (num / den).log2 - 23

theorem roundRatio_eq (num den : Nat) :
    roundRatio num den =
      min (roundShift num den * 2 ^ 23 + rneDiv num (den * 2 ^ roundShift num den)) infMag := rfl

/-- At its offset the quotient has 24 bits, or fewer in the first binade. -/
theorem roundShift_bounds (num den : Nat) :
    num / (den * 2 ^ roundShift num den) < 2 ^ 24 ∧
      (roundShift num den = 0 ∨ 2 ^ 23 ≤ num / (den * 2 ^ roundShift num den)) := by
  rw [← Nat.div_div_eq_div_mul]
  unfold roundShift
  generalize num / den = n
  constructor
  · rw [Nat.div_lt_iff_lt_mul (by positivity), ← pow_add]
    exact Nat.lt_log2_self.trans_le (Nat.pow_le_pow_right (by decide) (by omega))
  · rcases Nat.eq_zero_or_pos (n.log2 - 23) with h0 | hpos
    · exact .inl h0
    · refine .inr ?_
      have hn : n ≠ 0 := fun h => by simp [h, Nat.log2] at hpos
      rw [Nat.le_div_iff_mul_le (by positivity), ← pow_add, show 23 + (n.log2 - 23) = n.log2 by omega]
      exact Nat.log2_self_le hn

/-- Rounding to nearest even, by the place of the remainder in the divisor. -/
theorem rneDiv_cases (n d : Nat) :
    (2 * (n % d) < d ∧ rneDiv n d = n / d) ∨ (d < 2 * (n % d) ∧ rneDiv n d = n / d + 1) ∨
      (2 * (n % d) = d ∧ rneDiv n d = n / d + n / d % 2) := by
  unfold rneDiv
  dsimp only
  split
  · exact .inl ⟨‹_›, rfl⟩
  · split
    · exact .inr (.inl ⟨‹_›, rfl⟩)
    · exact .inr (.inr ⟨by omega, rfl⟩)

section Quotient

variable {num den sh q r : Nat} (hd : 0 < den) (hq : q < 2 ^ 24) (hlow : sh = 0 ∨ 2 ^ 23 ≤ q)
  (hdiv : den * 2 ^ sh * q + r = num)
include hd hq hlow hdiv

/-- The distance of a quotient from the pattern below it. -/
theorem quotient_sub_magUnits : (num / den : ℚ) - magUnits (sh * 2 ^ 23 + q) = r / den := by
  have hden : (0 : ℚ) < den := by exact_mod_cast hd
  rw [magUnits_binade hq.le hlow, ← hdiv]
  push_cast
  field_simp
  ring

/-- The distance of a quotient from the pattern above it. -/
theorem magUnits_sub_quotient :
    magUnits (sh * 2 ^ 23 + q + 1) - (num / den : ℚ) = ((den * 2 ^ sh : ℕ) - r) / den := by
  have hden : (0 : ℚ) < den := by exact_mod_cast hd
  rw [Nat.add_assoc, magUnits_binade (by omega) (by omega), ← hdiv]
  push_cast
  field_simp
  ring

end Quotient

/-- Before an overflow is cut off, `roundRatio` is the nearest pattern. -/
theorem isNearestMag_round {num den : Nat} (hd : 0 < den) :
    IsNearestMag (num / den) (roundShift num den * 2 ^ 23 + rneDiv num (den * 2 ^ roundShift num den)) := by
  obtain ⟨hq, hlow⟩ := roundShift_bounds num den
  generalize roundShift num den = sh at *
  have hD : 0 < den * 2 ^ sh := by positivity
  have hr : ((num % (den * 2 ^ sh) : ℕ) : ℚ) ≤ (den * 2 ^ sh : ℕ) := by exact_mod_cast (Nat.mod_lt num hD).le
  have hden : (0 : ℚ) < den := by exact_mod_cast hd
  have hbelow := quotient_sub_magUnits hd hq hlow (Nat.div_add_mod num _)
  have habove := magUnits_sub_quotient hd hq hlow (Nat.div_add_mod num _)
  have h0 := sub_nonneg.mp (hbelow ▸ div_nonneg (Nat.cast_nonneg _) hden.le)
  have h1 := sub_nonneg.mp (habove ▸ div_nonneg (sub_nonneg.mpr hr) hden.le)
  rcases rneDiv_cases num (den * 2 ^ sh) with ⟨hlt, e⟩ | ⟨hgt, e⟩ | ⟨htie, e⟩ <;> rw [e]
  · have hlt' : (2 * (num % (den * 2 ^ sh) : ℕ) : ℚ) < (den * 2 ^ sh : ℕ) := by exact_mod_cast hlt
    refine isNearestMag_lower h0 h1 (.inl ?_)
    rw [hbelow, habove]
    exact div_lt_div_of_pos_right (by linarith) hden
  · have hgt' : ((den * 2 ^ sh : ℕ) : ℚ) < 2 * (num % (den * 2 ^ sh) : ℕ) := by exact_mod_cast hgt
    rw [← Nat.add_assoc]
    refine isNearestMag_upper h0 h1 (.inl ?_)
    rw [hbelow, habove]
    exact div_lt_div_of_pos_right (by linarith) hden
  · have htie' : (2 * (num % (den * 2 ^ sh) : ℕ) : ℚ) = (den * 2 ^ sh : ℕ) := by exact_mod_cast htie
    have hsame : (num / den : ℚ) - magUnits (sh * 2 ^ 23 + num / (den * 2 ^ sh)) =
        magUnits (sh * 2 ^ 23 + num / (den * 2 ^ sh) + 1) - (num / den : ℚ) := by
      rw [hbelow, habove, ← htie']
      ring
    rcases Nat.mod_two_eq_zero_or_one (num / (den * 2 ^ sh)) with hpar | hpar <;> rw [hpar]
    · exact isNearestMag_lower h0 h1 (.inr ⟨hsame, Nat.even_iff.mpr (by omega)⟩)
    · rw [← Nat.add_assoc]
      exact isNearestMag_upper h0 h1 (.inr ⟨hsame.symm, Nat.even_iff.mpr (by omega)⟩)

/-! ## From magnitudes to patterns -/

/-- The nearest pattern is at or past infinity exactly from half a unit above the largest finite value on. -/
theorem IsNearestMag.infMag_le_iff {v : ℚ} {m : Nat} (h : IsNearestMag v m) :
    infMag ≤ m ↔ overflowBound ≤ v / 2 ^ 149 := by
  have hbound : overflowBound * 2 ^ 149 = (2 ^ 24 - 1 / 2) * 2 ^ 253 := by norm_num [overflowBound]
  have hinf : (magUnits infMag : ℚ) = 2 ^ 24 * 2 ^ 253 := by rw [magUnits_infMag]; norm_num
  have hmax : (magUnits (infMag - 1) : ℚ) = (2 ^ 24 - 1) * 2 ^ 253 := by rw [magUnits_largest]; norm_num
  have hu : (0 : ℚ) < 2 ^ 253 := by positivity
  rw [le_div_iff₀ (by positivity), hbound]
  generalize (2 : ℚ) ^ 253 = u at *
  constructor
  · intro hm
    have hU : 2 ^ 24 * u ≤ magUnits m := by
      rw [← hinf]; exact_mod_cast magUnits_strictMono.monotone hm
    obtain ⟨hle, -⟩ := h (infMag - 1)
    by_contra hlt
    rw [hmax, abs_sub_comm, abs_of_nonneg (by linarith), le_abs] at hle
    rcases hle with hle | hle <;> linarith
  · intro hv
    by_contra hlt
    have hU : (magUnits m : ℚ) ≤ (2 ^ 24 - 1) * u := by
      rw [← hmax]; exact_mod_cast magUnits_strictMono.monotone (show m ≤ infMag - 1 by omega)
    obtain ⟨hle, htie⟩ := h infMag
    rw [hinf, abs_of_nonneg (by linarith : 0 ≤ v - magUnits m)] at hle htie
    have htop : |v - 2 ^ 24 * u| = v - magUnits m := by
      refine le_antisymm (abs_le.mpr ⟨?_, ?_⟩) hle <;> linarith
    have hlargest : (magUnits m : ℚ) = magUnits (infMag - 1) := by
      rw [hmax]
      refine le_antisymm hU ?_
      rcases le_abs.mp hle with hle | hle <;> linarith
    obtain rfl : m = infMag - 1 := magUnits_strictMono.injective (by exact_mod_cast hlargest)
    exact absurd (htie htop.symm (by decide)) (by decide)

theorem nearestEven_ratCast (v : ℚ) (x : F) : NearestEven (v : ℝ) x ↔
    if overflowBound ≤ |v| then isInf x = true ∧ (fSign x = true ↔ v < 0)
    else isFinite x = true ∧ ∀ y : F, isFinite y = true →
      |v - fValue x| ≤ |v - fValue y| ∧
        (|v - fValue x| = |v - fValue y| → fValue y ≠ fValue x → x.getLsbD 0 = false) := by
  unfold NearestEven
  norm_cast

theorem getLsbD_zero_withSign {neg : Bool} {m : Nat} (hm : Even m) : (withSign neg m).getLsbD 0 = false := by
  obtain ⟨k, rfl⟩ := hm
  rw [BitVec.getLsbD, Nat.testBit_zero, withSign, BitVec.toNat_ofNat, decide_eq_false_iff_not]
  cases neg <;> simp <;> omega

/-- The nearest magnitude stays the nearest value when the patterns of the other sign are compared too. -/
theorem IsNearestMag.signed_nearest {v : ℚ} {m : Nat} (h : IsNearestMag v m) (hv : 0 ≤ v) (neg neg' : Bool) (k : Nat) :
    |signed neg v - signed neg (magUnits m)| ≤ |signed neg v - signed neg' (magUnits k)| ∧
      (|signed neg v - signed neg (magUnits m)| = |signed neg v - signed neg' (magUnits k)| →
        signed neg' (magUnits k) ≠ signed neg (magUnits m) → Even m) := by
  rw [abs_signed_sub_signed]
  rcases Bool.eq_or_eq_not neg' neg with rfl | rfl
  · rw [abs_signed_sub_signed]
    exact ⟨(h k).1, fun e hne => (h k).2 e fun hkm => hne (by rw [hkm])⟩
  · obtain ⟨hle, htie⟩ := h 0
    rw [magUnits_zero, Nat.cast_zero, sub_zero, abs_of_nonneg hv] at hle htie
    have hU : (0 : ℚ) ≤ magUnits k := by positivity
    rw [abs_signed_sub_signed_not neg hv hU]
    refine ⟨by linarith, fun e _ => ?_⟩
    rcases Nat.eq_zero_or_pos m with rfl | hm
    · exact Even.zero
    · exact htie (by linarith) hm.ne

theorem nearestEven_withSign (neg : Bool) {v : ℚ} {m : Nat} (hv : 0 ≤ v) (h : IsNearestMag v m) :
    NearestEven ((signed neg v / 2 ^ 149 : ℚ) : ℝ) (withSign neg (min m infMag)) := by
  have hscale : (0 : ℚ) < 2 ^ 149 := by positivity
  have habs : |signed neg v / 2 ^ 149| = v / 2 ^ 149 := by
    rw [abs_div, abs_signed, abs_of_nonneg hv, abs_of_pos hscale]
  have hm31 : min m infMag < 2 ^ 31 := (Nat.min_le_right _ _).trans_lt (by decide)
  rw [nearestEven_ratCast, habs]
  split
  · rename_i hover
    have hpos : 0 < v := (div_pos_iff_of_pos_right hscale).mp (hover.trans_lt' (by norm_num [overflowBound]))
    rw [Nat.min_eq_right (h.infMag_le_iff.mpr hover), fSign_withSign (by decide), div_lt_iff₀ hscale,
      zero_mul, signed_lt_zero hpos]
    exact ⟨decide_eq_true (fMag_withSign (by decide)), Iff.rfl⟩
  · rename_i hover
    have hfin : m < infMag := Nat.lt_of_not_le fun hm => hover (h.infMag_le_iff.mp hm)
    rw [Nat.min_eq_left hfin.le] at hm31 ⊢
    refine ⟨decide_eq_true (by rwa [fMag_withSign hm31]), fun y _ => ?_⟩
    obtain ⟨hle, htie⟩ := h.signed_nearest hv neg (fSign y) (fMag y)
    rw [fValue_eq, fValue_eq, fSign_withSign hm31, fMag_withSign hm31, ← sub_div, ← sub_div, abs_div, abs_div,
      abs_of_pos hscale, div_le_div_iff_of_pos_right hscale, div_left_inj' hscale.ne']
    exact ⟨hle, fun e hne => getLsbD_zero_withSign (htie e fun e' => hne (by rw [e']))⟩

/-- `roundRatio` of a quotient of units rounds its value correctly, whatever sign it is given. -/
theorem nearestEven_roundRatio (neg : Bool) {num den : Nat} (hd : 0 < den) :
    NearestEven ((signed neg (num / den) / 2 ^ 149 : ℚ) : ℝ) (withSign neg (roundRatio num den)) :=
  nearestEven_withSign neg (by positivity) (isNearestMag_round hd)

/-! ## The operations on finite operands -/

theorem fMag_fneg (x : F) : fMag (fneg x) = fMag x := by
  rw [fMag_eq_and, fMag_eq_and, fneg]
  congr 1
  apply BitVec.eq_of_getLsbD_eq
  intro i hi
  simp only [BitVec.getLsbD_and, BitVec.getLsbD_xor]
  interval_cases i <;> simp

theorem fSign_fneg (x : F) : fSign (fneg x) = !fSign x := by
  simp [fSign, fneg]

theorem isFinite_fneg (x : F) : isFinite (fneg x) = isFinite x := by
  rw [isFinite, isFinite, fMag_fneg]

theorem fValue_fneg (x : F) : fValue (fneg x) = -fValue x := by
  rw [fValue_eq, fValue_eq, fMag_fneg, fSign_fneg]
  cases fSign x <;> simp [signed, neg_div]

section Finite

variable {a b : F} (ha : isFinite a = true) (hb : isFinite b = true)
include ha hb

theorem fsum_of_finite (op : FloatOp) (c : F) : fsum op a b c =
    if fUnits a + fUnits b = 0 then withSign (fSign a && fSign b) 0
    else withSign (decide (fUnits a + fUnits b < 0)) (roundRatio (fUnits a + fUnits b).natAbs 1) := by
  simp only [fsum, isNaN_of_isFinite ha, isNaN_of_isFinite hb, isInf_of_isFinite ha, isInf_of_isFinite hb, Bool.or_self,
    Bool.false_eq_true, if_false]

theorem fmul_of_finite : fmul a b =
    withSign (fSign a != fSign b) (roundRatio (fMagUnits a * fMagUnits b) (2 ^ 149)) := by
  simp only [fmul, isNaN_of_isFinite ha, isNaN_of_isFinite hb, isInf_of_isFinite ha, isInf_of_isFinite hb, Bool.or_self,
    Bool.false_eq_true, if_false]

theorem fdiv_of_finite (h0 : isZero b = false) : fdiv a b =
    withSign (fSign a != fSign b) (roundRatio (fMagUnits a * 2 ^ 149) (fMagUnits b)) := by
  simp only [fdiv, isNaN_of_isFinite ha, isNaN_of_isFinite hb, isInf_of_isFinite ha, isInf_of_isFinite hb, h0, Bool.or_self,
    Bool.false_eq_true, if_false]

theorem fsum_nearestEven (op : FloatOp) (c : F) : NearestEven ((fValue a + fValue b : ℚ) : ℝ) (fsum op a b c) := by
  have hvalue : fValue a + fValue b = ((fUnits a + fUnits b : ℤ) : ℚ) / 2 ^ 149 := by
    rw [fValue, fValue]; push_cast; ring
  rw [hvalue, fsum_of_finite ha hb]
  generalize fUnits a + fUnits b = u
  split
  · rename_i h0
    have h := nearestEven_roundRatio (fSign a && fSign b) (num := 0) one_pos
    rw [roundRatio_zero] at h
    simpa [h0, signed] using h
  · have h := nearestEven_roundRatio (decide (u < 0)) (num := u.natAbs) one_pos
    rwa [Nat.cast_one, div_one, signed_natAbs] at h

theorem fmul_nearestEven : NearestEven ((fValue a * fValue b : ℚ) : ℝ) (fmul a b) := by
  have hvalue : fValue a * fValue b =
      signed (fSign a != fSign b) ((fMagUnits a * fMagUnits b : ℕ) / (2 ^ 149 : ℕ)) / 2 ^ 149 := by
    rw [fValue_eq, fValue_eq, ← fMagUnits_eq, ← fMagUnits_eq, div_mul_div_comm, signed_mul_signed, signed_div, div_div,
      Nat.cast_mul, Nat.cast_pow, Nat.cast_ofNat]
  rw [hvalue, fmul_of_finite ha hb]
  exact nearestEven_roundRatio _ (by positivity)

theorem fdiv_nearestEven (h0 : isZero b = false) : NearestEven ((fValue a / fValue b : ℚ) : ℝ) (fdiv a b) := by
  have hb0 : 0 < fMagUnits b := Nat.pos_of_ne_zero fun h => by
    simp [isZero, (fMagUnits_eq_zero_iff b).mp h] at h0
  have hvalue : fValue a / fValue b =
      signed (fSign a != fSign b) ((fMagUnits a * 2 ^ 149 : ℕ) / (fMagUnits b : ℕ)) / 2 ^ 149 := by
    rw [fValue_eq, fValue_eq, ← fMagUnits_eq, ← fMagUnits_eq, div_div_div_cancel_right₀ (by positivity), signed_div_signed,
      ← signed_div, div_right_comm,
      Nat.cast_mul, Nat.cast_pow, Nat.cast_ofNat, mul_div_cancel_right₀ _ (by positivity)]
  rw [hvalue, fdiv_of_finite ha hb h0]
  exact nearestEven_roundRatio _ hb0

end Finite

/-! ## Comparisons -/

/-- The keys order the patterns as the units do. -/
theorem fUnits_lt_iff (a b : F) : fUnits a < fUnits b ↔ fKey a < fKey b := by
  have hlt : ∀ {m n : Nat}, (magUnits m : ℤ) < magUnits n ↔ (m : ℤ) < n := by
    intro m n
    rw [Nat.cast_lt, Nat.cast_lt, magUnits_strictMono.lt_iff_lt]
  have hpos : ∀ m : Nat, 0 < magUnits m ↔ 0 < m := fun m => magUnits_strictMono.lt_iff_lt (a := 0)
  have ha := hpos (fMag a)
  have hb := hpos (fMag b)
  rw [fUnits, fUnits, fKey, fKey, fMagUnits_eq, fMagUnits_eq]
  cases fSign a <;> cases fSign b <;> simp only [Bool.false_eq_true, if_false, if_true]
  · exact hlt
  · omega
  · omega
  · rw [neg_lt_neg_iff, neg_lt_neg_iff, hlt]

theorem fValue_lt_iff (a b : F) : fValue a < fValue b ↔ fKey a < fKey b := by
  rw [fValue, fValue, div_lt_div_iff_of_pos_right (by positivity), Int.cast_lt, fUnits_lt_iff]

theorem fValue_le_iff (a b : F) : fValue a ≤ fValue b ↔ fKey a ≤ fKey b := by
  rw [← not_lt, fValue_lt_iff, not_lt]

theorem fValue_eq_iff (a b : F) : fValue a = fValue b ↔ fKey a = fKey b := by
  rw [le_antisymm_iff, fValue_le_iff, fValue_le_iff, ← le_antisymm_iff]

section NotNaN

variable {a b : F} (ha : isNaN a = false) (hb : isNaN b = false)
include ha hb

theorem flt_iff : flt a b = true ↔ fValue a < fValue b := by
  simp [flt, ha, hb, fValue_lt_iff]

theorem fle_iff : fle a b = true ↔ fValue a ≤ fValue b := by
  simp [fle, ha, hb, fValue_le_iff]

theorem feq_iff : feq a b = true ↔ fValue a = fValue b := by
  simp [feq, ha, hb, fValue_eq_iff]

end NotNaN

/-! ## The obligations -/

/-- Settles O48: a sum is rounded once, and a difference is the sum with the second operand negated. -/
theorem sumsAreCorrectlyRounded : Obligations.SumsAreCorrectlyRounded := by
  intro a b ha hb
  refine ⟨fsum_nearestEven ha hb _ _, ?_⟩
  rw [sub_eq_add_neg, ← fValue_fneg]
  exact fsum_nearestEven ha ((isFinite_fneg b).trans hb) _ _

/-- Settles O49: the product of the magnitudes, over 2^149, is the product in units. -/
theorem productsAreCorrectlyRounded : Obligations.ProductsAreCorrectlyRounded :=
  fun _ _ ha hb => fmul_nearestEven ha hb

/-- Settles O50: the quotient of the magnitudes, times 2^149, is the quotient in units; a non-zero divisor has units. -/
theorem quotientsAreCorrectlyRounded : Obligations.QuotientsAreCorrectlyRounded :=
  fun _ _ ha hb h0 => fdiv_nearestEven ha hb h0

/-- Settles O51: the keys the comparisons test are ordered as the values are, and a NaN fails the test before them. -/
theorem comparisonsFollowValues : Obligations.ComparisonsFollowValues := by
  refine ⟨fun a b ha hb => ?_, fun a b h => ?_⟩
  · have ha' := isNaN_of_isFinite ha
    have hb' := isNaN_of_isFinite hb
    exact ⟨flt_iff ha' hb', fle_iff ha' hb', flt_iff hb' ha', fle_iff hb' ha', feq_iff ha' hb'⟩
  · rcases h with h | h <;> simp [flt, fle, fgt, fge, feq, h]

end Sys2Proof.Machine
end

section
/-! PROOF. HARMONIC_COUNT as a function of the value of the resolution (R107). -/

open Sys2Proof

namespace Sys2Proof.Machine

theorem fValue_fOne : fValue fOne = 1 := by
  rw [fValue, show fUnits fOne = 2 ^ 149 by decide]
  norm_num

/-- `floorF` is the floor of the value (R13). -/
theorem floorF_eq (x : F) : floorF x = ⌊fValue x⌋ := by
  rw [floorF, Int.fdiv_eq_ediv_of_nonneg _ (by positivity), fValue]
  exact_mod_cast (Rat.floor_intCast_div_natCast (fUnits x) (2 ^ 149)).symm

/-! ## The default function -/

theorem standardHarmonicCount_of_isNaN (hmax : Nat) {r : F} (h : isNaN r = true) : standardHarmonicCount hmax r = 1 := by
  simp [standardHarmonicCount, h]

theorem standardHarmonicCount_of_isInf (hmax : Nat) {r : F} (h : isInf r = true) :
    standardHarmonicCount hmax r = if fSign r then 1 else hmax := by
  rcases isInf_cases h with rfl | rfl <;> rfl

theorem standardHarmonicCount_of_isFinite (hmax : Nat) {r : F} (h : isFinite r = true) :
    (standardHarmonicCount hmax r : ℤ) = if fValue r < 1 then 1 else min ⌊fValue r⌋ hmax := by
  have hlt : flt r fOne = true ↔ fValue r < 1 := by rw [flt_iff (isNaN_of_isFinite h) (by decide), fValue_fOne]
  rw [standardHarmonicCount, isNaN_of_isFinite h, isInf_of_isFinite h, Bool.false_or, floorF_eq]
  simp only [hlt, Bool.false_eq_true, if_false]
  split
  · rfl
  · rename_i hge
    have hfloor : 1 ≤ ⌊fValue r⌋ := Int.le_floor.mpr (by simpa using hge)
    omega

theorem standardHarmonicCount_bounds {hmax : Nat} (hm : 1 ≤ hmax) (r : F) :
    1 ≤ standardHarmonicCount hmax r ∧ standardHarmonicCount hmax r ≤ hmax := by
  rcases class_cases r with ⟨h, -, -⟩ | ⟨-, h, -⟩ | ⟨-, -, h⟩
  · rw [standardHarmonicCount_of_isNaN hmax h]
    omega
  · rw [standardHarmonicCount_of_isInf hmax h]
    split <;> omega
  · have hN := standardHarmonicCount_of_isFinite hmax h
    split at hN
    · omega
    · have hfloor : 1 ≤ ⌊fValue r⌋ := Int.le_floor.mpr (by simpa using ‹¬fValue r < 1›)
      omega

theorem standardHarmonicCount_mono (hmax : Nat) {a b : F} (ha : isFinite a = true) (hb : isFinite b = true)
    (h : fle a b = true) (hm : 1 ≤ hmax) : standardHarmonicCount hmax a ≤ standardHarmonicCount hmax b := by
  have hle : fValue a ≤ fValue b := (fle_iff (isNaN_of_isFinite ha) (isNaN_of_isFinite hb)).mp h
  have hfloor := Int.floor_le_floor hle
  have hNa := standardHarmonicCount_of_isFinite hmax ha
  have hNb := standardHarmonicCount_of_isFinite hmax hb
  have hpos := standardHarmonicCount_bounds hm b
  split at hNa
  · omega
  · rename_i hge
    rw [if_neg fun hlt => hge (hle.trans_lt hlt)] at hNb
    omega

/-! ## A function given as steps -/

theorem stepHarmonicCount_of_isFinite (t : HarmonicSteps) {r : F} (h : isFinite r = true) :
    stepHarmonicCount t r = 1 + t.rises.countP fun x => fge r x := by
  rw [stepHarmonicCount, isNaN_of_isFinite h, isInf_of_isFinite h]
  rfl

theorem stepHarmonicCount_bounds {hmax : Nat} {t : HarmonicSteps} (ht : harmonicStepsOk hmax t) (r : F) :
    1 ≤ stepHarmonicCount t r ∧ stepHarmonicCount t r ≤ hmax := by
  obtain ⟨hlen, hNaN, hpos, hneg⟩ := ht
  rcases class_cases r with ⟨h, -, -⟩ | ⟨-, h, -⟩ | ⟨-, -, h⟩
  · simpa [stepHarmonicCount, h] using hNaN
  · rcases isInf_cases h with rfl | rfl
    · exact hpos
    · exact hneg
  · rw [stepHarmonicCount_of_isFinite t h]
    have := t.rises.countP_le_length (p := fun x => fge r x)
    omega

theorem stepHarmonicCount_mono (t : HarmonicSteps) {a b : F} (ha : isFinite a = true) (hb : isFinite b = true)
    (h : fle a b = true) : stepHarmonicCount t a ≤ stepHarmonicCount t b := by
  rw [stepHarmonicCount_of_isFinite t ha, stepHarmonicCount_of_isFinite t hb]
  exact Nat.add_le_add_left (List.countP_mono_left fun _ _ hx => fle_trans hx h) 1

/-! ## The function of the configuration -/

theorem harmonicCount_of_standard {cfg : Params} (h : cfg.harmonics = .standard) (r : F) :
    harmonicCount cfg r = standardHarmonicCount cfg.hmax r := by simp only [harmonicCount, h]

theorem harmonicCount_of_steps {cfg : Params} {t : HarmonicSteps} (h : cfg.harmonics = .steps t) (r : F) :
    harmonicCount cfg r = stepHarmonicCount t r := by simp only [harmonicCount, h]

theorem paramsOk.harmonicsOk {p : Params} (h : paramsOk p) : harmonicsOk p := by
  obtain ⟨-, -, -, -, -, hharm⟩ := h
  exact hharm

/-- The count is in 1 .. `HMAX` (R107, I9). -/
theorem harmonicCount_bounds {cfg : Params} (hc : paramsOk cfg) (r : F) :
    1 ≤ harmonicCount cfg r ∧ harmonicCount cfg r ≤ cfg.hmax := by
  obtain ⟨hmax, hsteps⟩ := hc.harmonicsOk
  cases hf : cfg.harmonics with
  | standard => rw [harmonicCount_of_standard hf]; exact standardHarmonicCount_bounds hmax r
  | steps t => rw [harmonicCount_of_steps hf]; exact stepHarmonicCount_bounds (hsteps t hf) r

/-- The count never decreases over the finite values (R107). -/
theorem harmonicCount_mono {cfg : Params} (hc : paramsOk cfg) {a b : F} (ha : isFinite a = true) (hb : isFinite b = true)
    (h : fle a b = true) : harmonicCount cfg a ≤ harmonicCount cfg b := by
  cases hf : cfg.harmonics with
  | standard =>
    rw [harmonicCount_of_standard hf, harmonicCount_of_standard hf]
    exact standardHarmonicCount_mono _ ha hb h hc.harmonicsOk.1
  | steps t =>
    rw [harmonicCount_of_steps hf, harmonicCount_of_steps hf]
    exact stepHarmonicCount_mono t ha hb h

theorem exec_harmonicCount (r : F) (s : State) :
    exec (.harmonicCount r) s = .next { s with dp := { s.dp with n := harmonicCount s.cfg r } } := rfl

/-- Settles O29: the count is that of the configuration's function, the default one or one given as steps. -/
theorem harmonicCountIsTheBoundedFloor : Obligations.HarmonicCountIsTheBoundedFloor := by
  refine ⟨fun s r => ⟨_, exec_harmonicCount r s, fun hc => harmonicCount_bounds hc r, fun hstd => ?_⟩, ?_, rfl, rfl⟩
  · rw [harmonicCount_of_standard hstd]
    exact ⟨standardHarmonicCount_of_isNaN _, standardHarmonicCount_of_isInf _, standardHarmonicCount_of_isFinite _⟩
  · intro s ta tb a b hc ha hb hle hta htb
    rw [exec_harmonicCount] at hta htb
    cases hta
    cases htb
    exact harmonicCount_mono hc ha hb hle

end Sys2Proof.Machine
end

section
/-! PROOF. The interrupt output as a level (R35), and what each operation that writes DONE or DONE_IE makes of it. -/

open Sys2Proof

namespace Sys2Proof.Machine

theorem State.irq_eq_true_iff (s : State) : s.irq = true ↔ s.done = true ∧ s.doneIe = true := Bool.and_eq_true_iff

/-! ## The level after a change of the state -/

/-- A completion raises the level when the interrupt is enabled (R229). -/
theorem State.irq_complete (s : State) : s.complete.irq = s.doneIe := by
  rw [irq, complete_done, complete_doneIe, Bool.true_and]

/-- Writing 1 to DONE clears the level (R214). -/
theorem State.irq_clearStatus (s : State) (v : Word) : (s.clearStatus v).irq = (s.irq && !v.getLsbD 1) := by
  rw [irq, clearStatus_done, clearStatus_doneIe, irq, Bool.and_right_comm]

/-- DONE_IE masks the level and leaves DONE alone (R221). -/
theorem State.irq_setDoneIe (s : State) (b : Bool) : (s.setDoneIe b).irq = (s.done && b) := by
  rw [irq, setDoneIe_done, setDoneIe_doneIe]

theorem State.renderStart_done (s : State) : s.renderStart.done = decide (s.totalSamples = 0) := rfl

/-- The start of a render of some length clears DONE and lowers the level (R226). -/
theorem State.irq_renderStart {s : State} (h : s.totalSamples ≠ 0) : s.renderStart.irq = false := by
  rw [irq, renderStart_done, decide_eq_false h, Bool.false_and]

/-! ## The operations -/

theorem exec_renderComplete (s : State) : exec .renderComplete s = .next s.complete := rfl

theorem exec_wrStatus (v : Word) (s : State) : exec (.wrStatus v) s = .next (s.clearStatus v) := rfl

theorem exec_wrIrqEn (v : Word) (s : State) : exec (.wrIrqEn v) s = .next (s.setDoneIe (v.getLsbD 0)) := rfl

theorem exec_renderStart (s : State) : exec .renderStart s = .next s.renderStart := rfl

/-- Settles O22: the level after each operation is that of the state the operation completes in. -/
theorem completionRaisesTheInterrupt : Obligations.CompletionRaisesTheInterrupt := by
  refine fun s => ⟨exec_renderComplete s, s.irq_eq_true_iff, rfl, fun t ht => ?complete, fun v t ht => ?status,
    fun v t ht => ?irqEn, fun t hn ht => ?start⟩
  case complete =>
    cases (exec_renderComplete s).symm.trans ht
    exact s.irq_complete
  case status =>
    cases (exec_wrStatus v s).symm.trans ht
    exact s.irq_clearStatus v
  case irqEn =>
    cases (exec_wrIrqEn v s).symm.trans ht
    exact s.irq_setDoneIe _
  case start =>
    cases (exec_renderStart s).symm.trans ht
    exact State.irq_renderStart hn

end Sys2Proof.Machine
end

section
/-! PROOF. The buffer as the host sees it: a read changes the returned data only (R66), and between two renders no transaction
touches the samples (R71). -/

open Sys2Proof

namespace Sys2Proof.Machine

/-! ## What a buffer read depends on -/

/-- Everything a read of the buffer region, or of LENGTH and PROGRESS, depends on (R69, R71). -/
def State.bufferView (s : State) : Bool × Word × Word × Memory := (s.busy, s.length, s.progress, s.buf)

theorem State.bufferView_eq_iff {s t : State} : t.bufferView = s.bufferView ↔
    t.busy = s.busy ∧ t.length = s.length ∧ t.progress = s.progress ∧ t.buf = s.buf := by
  simp [bufferView]

theorem State.bufByte_congr {s t : State} (h : t.bufferView = s.bufferView) (i : Nat) : t.bufByte i = s.bufByte i := by
  obtain ⟨-, -, -, hbuf⟩ := bufferView_eq_iff.mp h
  rw [bufByte, bufByte, hbuf]

theorem State.bufLane_congr {s t : State} (h : t.bufferView = s.bufferView) (i : Nat) : t.bufLane i = s.bufLane i := by
  obtain ⟨hbusy, hlength, -, -⟩ := bufferView_eq_iff.mp h
  rw [bufLane, bufLane, hbusy, hlength, bufByte_congr h]

theorem State.bufLanes_congr {s t : State} (h : t.bufferView = s.bufferView) (i n : Nat) :
    t.bufLanes i n = s.bufLanes i n := by
  induction n generalizing i with
  | zero => rfl
  | succ n ih => rw [bufLanes, bufLanes, bufLane_congr h, ih]

theorem State.bufRead_congr {s t : State} (h : t.bufferView = s.bufferView) (i n : Nat) : t.bufRead i n = s.bufRead i n := by
  rw [bufRead, bufRead, bufLanes_congr h]

/-! ## What each update leaves of it -/

@[simp] theorem State.bufferView_respond (s : State) (v : Word) : (s.respond v).bufferView = s.bufferView := rfl

@[simp] theorem State.bufferView_setErrAddr (s : State) : s.setErrAddr.bufferView = s.bufferView := rfl

@[simp] theorem State.bufferView_setErrBusy (s : State) : s.setErrBusy.bufferView = s.bufferView := rfl

/-- A busy-checked write keeps the buffer if its effect does: refused, it sets a flag only (R212). -/
theorem State.bufferView_busyChecked {s : State} {f : State → State} (hf : (f s).bufferView = s.bufferView) :
    (s.busyChecked f).bufferView = s.bufferView := by
  cases hb : s.busy with
  | true => rw [busyChecked_of_busy hb, bufferView_setErrBusy]
  | false => rw [busyChecked_of_idle hb, hf]

/-! ## Reads -/

theorem exec_rdReg (r : RegName) (s : State) : exec (.rdReg r) s = .next (s.respond (s.readReg r)) := rfl

theorem exec_readOf (w : Width) (i : BitVec 21) (s : State) :
    exec (readOf w i) s = .next (s.respond (s.bufRead i.toNat (widthBytes w))) := by
  cases w <;> rfl

theorem exec_badAccess (we : Bool) (size : BitVec 2) (addr : BitVec 22) (v : Word) (s : State) :
    exec (.badAccess we size addr v) s = .next (if we then s.setErrAddr else s.setErrAddr.respond 0#32) := rfl

/-- No register shows the data returned before. -/
@[simp] theorem State.readReg_respond (s : State) (v : Word) (r : RegName) : (s.respond v).readReg r = s.readReg r := by
  cases r <;> rfl

/-- A legal read responds with a function of the state that the data returned before does not enter (R66). -/
theorem exec_legalRead {T : Desc} (hread : descWe T = false) (hlegal : isIllegal (descSize T) (descAddr T) = false)
    (d : Word) : ∃ value : State → Word,
      (∀ s, exec (decodeBus T d) s = .next (s.respond (value s))) ∧ ∀ s v, value (s.respond v) = value s := by
  rcases decodeBus_cases T d with ⟨hill, -⟩ | ⟨r, -, -, hop⟩ | ⟨w, i, -, -, -, hop⟩
  · rw [hlegal] at hill
    cases hill
  · rw [hop, hread]
    exact ⟨fun s => s.readReg r, exec_rdReg r, fun s v => s.readReg_respond v r⟩
  · rw [hop, hread]
    exact ⟨fun s => s.bufRead i.toNat (widthBytes w), exec_readOf w i,
      fun s v => State.bufRead_congr (s.bufferView_respond v) _ _⟩

/-- An illegal read sets ERR_ADDR and returns 0 (R65, R225). -/
theorem exec_illegalRead {T : Desc} (hread : descWe T = false) (hill : isIllegal (descSize T) (descAddr T) = true)
    (d : Word) (s : State) : exec (decodeBus T d) s = .next (s.setErrAddr.respond 0#32) := by
  have hop := decodeBus_illegal (descWe T) (descSize T) (descAddr T) d hill
  rw [mkDesc_fields] at hop
  rw [hop, exec_badAccess, hread]
  rfl

/-! ## Transactions that start no render -/

/-- The descriptor of a write of CTRL, the only register write that can start a render (R61, R213). -/
theorem mkDesc_ctrl : mkDesc true 0b10#2 (BitVec.ofNat 22 (regAddr .ctrl)) = 0x1800004#25 := by decide

/-- A register write other than a START keeps the buffer, in either mode (R212 to R222). -/
theorem exec_writeOf_bufferView {r : RegName} {v : Word} (h : ¬(r = .ctrl ∧ v.getLsbD 0 = true)) (s : State) :
    ∃ t, exec (writeOf r v) s = .next t ∧ t.bufferView = s.bufferView := by
  cases r with
  | id => exact ⟨_, rfl, rfl⟩
  | ctrl =>
    have hbit : ¬v.getLsbD 0 = true := fun hbit => h ⟨rfl, hbit⟩
    exact ⟨s, congrArg Host.Outcome.next (if_neg hbit), rfl⟩
  | status => exact ⟨_, rfl, rfl⟩
  | config => exact ⟨_, rfl, State.bufferView_busyChecked rfl⟩
  | duration => exact ⟨_, rfl, State.bufferView_busyChecked rfl⟩
  | length => exact ⟨_, rfl, rfl⟩
  | progress => exact ⟨_, rfl, rfl⟩
  | irqEn => exact ⟨_, rfl, rfl⟩
  | dial i => exact ⟨_, rfl, State.bufferView_busyChecked rfl⟩
  | slot k => exact ⟨_, rfl, State.bufferView_busyChecked rfl⟩
  | sectionLength => exact ⟨_, rfl, State.bufferView_busyChecked rfl⟩
  | env k => exact ⟨_, rfl, State.bufferView_busyChecked rfl⟩

/-- Every transaction but a START keeps the buffer, in either mode: a read responds, a write of the buffer region or an
illegal access sets ERR_ADDR, and a register write touches its register (R66, R71, R224). -/
theorem exec_decodeBus_bufferView {T : Desc} {d : Word} (h : ¬(T = 0x1800004#25 ∧ d.getLsbD 0 = true)) (s : State) :
    ∃ t, exec (decodeBus T d) s = .next t ∧ t.bufferView = s.bufferView := by
  rcases decodeBus_cases T d with ⟨-, hop⟩ | ⟨r, hT, -, hop⟩ | ⟨w, i, -, -, -, hop⟩ <;> rw [hop]
  · refine ⟨_, exec_badAccess _ _ _ _ s, ?_⟩
    split
    · exact s.bufferView_setErrAddr
    · exact (s.setErrAddr.bufferView_respond _).trans s.bufferView_setErrAddr
  · split
    · rename_i hwe
      refine exec_writeOf_bufferView (fun hstart => h ?_) s
      obtain ⟨rfl, hbit⟩ := hstart
      rw [hwe, mkDesc_ctrl] at hT
      exact ⟨hT, hbit⟩
    · exact ⟨_, exec_rdReg r s, s.bufferView_respond _⟩
  · split
    · exact ⟨_, rfl, s.bufferView_setErrAddr⟩
    · exact ⟨_, exec_readOf w i s, s.bufferView_respond _⟩

/-! ## The obligations -/

/-- Settles O8: the value a legal read returns does not depend on the data returned before, and an illegal one sets a flag
that is already set when it is repeated. -/
theorem readsHaveNoSideEffects : Obligations.ReadsHaveNoSideEffects := by
  intro T d s hread
  cases hcase : isIllegal (descSize T) (descAddr T) with
  | true =>
    refine ⟨0#32, s.setErrAddr.respond 0#32, ?_, exec_illegalRead hread hcase d s, exec_illegalRead hread hcase d _⟩
    rw [Bool.or_true]
    rfl
  | false =>
    obtain ⟨value, hexec, hvalue⟩ := exec_legalRead hread hcase d
    refine ⟨value s, s.respond (value s), ?_, hexec s, ?_⟩
    · rw [Bool.or_false]
      rfl
    · rw [hexec, hvalue]
      rfl

/-- Settles O58: a transaction that is no START keeps everything a buffer read depends on. -/
theorem completedBufferStaysReadable : Obligations.CompletedBufferStaysReadable := by
  intro s T d hidle hstart
  obtain ⟨t, hexec, hview⟩ := exec_decodeBus_bufferView hstart s
  obtain ⟨hbusy, hlength, hprogress, -⟩ := State.bufferView_eq_iff.mp hview
  exact ⟨t, hexec, hbusy.trans hidle, hlength, hprogress, State.bufByte_congr hview, State.bufLane_congr hview⟩

end Sys2Proof.Machine
end

section
/-! PROOF. The encoder and the decoder are inverse to each other (R80, R86 to R90, R93): per kind of transaction and per
selector, then for every operation and for every transaction. -/

open Sys2Proof

namespace Sys2Proof.Machine

/-! ## Register accesses (R61, R93) -/

theorem decode_encodeRead (r : RegName) : decode (encodeRead r) = .ok (.rdReg r) :=
  congrArg Except.ok (decodeBus_register false r 0#32)

theorem decode_encodeWrite (r : RegName) (v : Word) : decode (encodeWrite r v) = .ok (writeOf r v) :=
  congrArg Except.ok (decodeBus_register true r v)

theorem encode_writeOf (r : RegName) (v : Word) : encode (writeOf r v) = some (encodeWrite r v) := by
  cases r <;> rfl

/-- The encoding of a register access in either direction; a read has no data word (R80). -/
theorem encode_register (we : Bool) (r : RegName) (v : Word) :
    encode (if we then writeOf r v else .rdReg r) =
      some (.bus (mkDesc we 0b10#2 (BitVec.ofNat 22 (regAddr r))) (if we then v else 0#32)) := by
  cases we with
  | true => exact encode_writeOf r v
  | false => rfl

theorem wellFormed_writeOf (r : RegName) (v : Word) : wellFormed (writeOf r v) = true := by
  cases r <;> rfl

/-- A written-out descriptor with the fields of a register read selects that read. -/
theorem decodeBus_of_readDesc {T : Desc} {r : RegName} (hT : mkDesc false 0b10#2 (BitVec.ofNat 22 (regAddr r)) = T)
    (d : Word) : decodeBus T d = .rdReg r :=
  hT ▸ decodeBus_register false r d

/-- A written-out descriptor with the fields of a register write selects that write. -/
theorem decodeBus_of_writeDesc {T : Desc} {r : RegName} (hT : mkDesc true 0b10#2 (BitVec.ofNat 22 (regAddr r)) = T)
    (d : Word) : decodeBus T d = writeOf r d :=
  hT ▸ decodeBus_register true r d

/-! ## Buffer accesses (R61, R64, R81) -/

theorem decode_encodeBuf (we : Bool) {w : Width} {i : BitVec 21} (h : i.toNat % widthBytes w = 0) (v : Word) :
    decode (encodeBuf we w i v) = .ok (if we then .wrBuf w i v else readOf w i) :=
  congrArg Except.ok (decodeBus_buffer we w i v h)

theorem encode_readOf (w : Width) (i : BitVec 21) : encode (readOf w i) = some (encodeBuf false w i 0#32) := by
  cases w <;> rfl

/-- The encoding of a buffer access in either direction; a read has no data word (R80). -/
theorem encode_buffer (we : Bool) (w : Width) (i : BitVec 21) (v : Word) :
    encode (if we then .wrBuf w i v else readOf w i) =
      some (.bus (mkDesc we (widthCode w) ((1#1 ++ i).cast rfl)) (if we then v else 0#32)) := by
  cases we with
  | true => rfl
  | false => exact encode_readOf w i

/-- A buffer read is well-formed if its index is aligned to its width (R64). -/
theorem wellFormed_readOf {w : Width} {i : BitVec 21} (h : i.toNat % widthBytes w = 0) : wellFormed (readOf w i) = true := by
  cases w with
  | w1 => rfl
  | w2 => exact decide_eq_true h
  | w4 => exact decide_eq_true h

/-! ## Illegal accesses (R65, R80) -/

/-- BAD_ACCESS is well-formed for an illegal transaction, with no data word on a read (R80). -/
theorem wellFormed_badAccess_iff (we : Bool) (size : BitVec 2) (addr : BitVec 22) (v : Word) :
    wellFormed (.badAccess we size addr v) = true ↔ isIllegal size addr = true ∧ (if we then v else 0#32) = v := by
  cases we with
  | true => simp [wellFormed]
  | false => simp [wellFormed, eq_comm (a := v)]

theorem decode_badAccess {we : Bool} {size : BitVec 2} {addr : BitVec 22} {v : Word}
    (h : wellFormed (.badAccess we size addr v) = true) :
    decode (.bus (mkDesc we size addr) v) = .ok (.badAccess we size addr v) := by
  obtain ⟨hill, hdata⟩ := (wellFormed_badAccess_iff we size addr v).mp h
  rw [decode, decodeBus_illegal we size addr v hill, hdata]

/-! ## Band codes (R89) -/

theorem bandOfCode_bandCode (b : Band) : bandOfCode (bandCode b) = some b := by
  cases b <;> rfl

theorem decode_bandCode (b : Band) (p : Word) (n : Nat) (r : F) :
    decode (.band (bandCode b) p n r) = .ok (decodeBand b p n r) := by
  rw [decode, bandOfCode_bandCode]

theorem decode_reservedBand {b : BitVec 3} (h : bandOfCode b = none) (p : Word) (n : Nat) (r : F) :
    decode (.band b p n r) = .error .reservedBand := by
  rw [decode, h]

/-! ## Slot fields (R83) -/

theorem decode_fm {w : BitVec 6} {c : BitVec 2} (h : slotFm w = c) (s : Fin 10) : decode (.fm s w) = .ok (decodeFm c s) :=
  h ▸ rfl

theorem decode_am {w : BitVec 6} {c : BitVec 2} (h : slotAm w = c) (s : Fin 10) : decode (.am s w) = .ok (decodeAm c s) :=
  h ▸ rfl

theorem decode_mul {w : BitVec 6} {c : BitVec 2} (h : slotMul w = c) (s : Fin 10) :
    decode (.mul s w) = .ok (decodeMul c s) :=
  h ▸ rfl

/-! ## Both round trips -/

/-- Decoding inverts encoding, format by format. -/
theorem decode_of_encode {i : Instr} {c : Code} (hwf : wellFormed i = true) (henc : encode i = some c) :
    decode c = .ok i := by
  cases i with
  -- Transactions of the register region.
  | rdReg r => cases henc; exact decode_encodeRead r
  | wrId v => cases henc; exact decode_encodeWrite .id v
  | wrCtrl v => cases henc; exact decode_encodeWrite .ctrl v
  | wrStatus v => cases henc; exact decode_encodeWrite .status v
  | wrConfig v => cases henc; exact decode_encodeWrite .config v
  | wrDuration v => cases henc; exact decode_encodeWrite .duration v
  | wrLength v => cases henc; exact decode_encodeWrite .length v
  | wrProgress v => cases henc; exact decode_encodeWrite .progress v
  | wrIrqEn v => cases henc; exact decode_encodeWrite .irqEn v
  | wrSectionLength v => cases henc; exact decode_encodeWrite .sectionLength v
  | wrDial j v => cases henc; exact decode_encodeWrite (.dial j) v
  | wrSlot s v => cases henc; exact decode_encodeWrite (.slot s) v
  | wrEnv k v => cases henc; exact decode_encodeWrite (.env k) v
  -- Transactions of the buffer region, aligned because they are well-formed.
  | rdBuf8 j => cases henc; exact decode_encodeBuf false (w := .w1) (Nat.mod_one _) 0#32
  | rdBuf16 j => cases henc; exact decode_encodeBuf false (w := .w2) (of_decide_eq_true hwf) 0#32
  | rdBuf32 j => cases henc; exact decode_encodeBuf false (w := .w4) (of_decide_eq_true hwf) 0#32
  | wrBuf w j v => cases henc; exact decode_encodeBuf true (of_decide_eq_true hwf) v
  -- Illegal transactions.
  | badAccess we size addr v => cases henc; exact decode_badAccess hwf
  -- The generators by their band code.
  | shapeSine p => cases henc; exact decode_bandCode .sine p 1 fZero
  | shapeSlant p n => cases henc; exact decode_bandCode .slant p n fZero
  | shapeSquare p n => cases henc; exact decode_bandCode .square p n fZero
  | shapeSaw p n => cases henc; exact decode_bandCode .saw p n fZero
  | shapeTri p n => cases henc; exact decode_bandCode .tri p n fZero
  | shapeImpulse p r => cases henc; exact decode_bandCode .impulse p 1 r
  -- The fields of a slot word, and the bits of R90: the decoder compares a literal field with its codes.
  | fmOff s | fmFreq s | fmShape s | fmRes s => cases henc; rfl
  | amOff s | amAmp s | amRes s | amShape s => cases henc; rfl
  | mulOff s | mulAdd s | mulSub s | mulMul s => cases henc; rfl
  | bqActive j x | bqBypass j x => cases henc; rfl
  | crushOff v | crushHold v => cases henc; rfl
  | envInterp | envHold => cases henc; rfl
  | quantWrap x | quantClamp x => cases henc; rfl
  -- RENDER_START and the rows of format INTERNAL have no encoding.
  | _ => cases henc

/-- What a transaction selects is well-formed: the decoder's tests are those of `wellFormed`. -/
theorem wellFormed_decodeBus (T : Desc) (d : Word) : wellFormed (decodeBus T d) = true := by
  rcases decodeBus_cases T d with ⟨hill, hop⟩ | ⟨r, -, -, hop⟩ | ⟨w, i, hal, -, -, hop⟩ <;> rw [hop]
  · exact (wellFormed_badAccess_iff ..).mpr ⟨hill, by split <;> rfl⟩
  · split
    · exact wellFormed_writeOf r d
    · rfl
  · split
    · exact decide_eq_true hal
    · exact wellFormed_readOf hal

/-- What a transaction selects encodes back to the transaction, without the data word of a read (R80). -/
theorem encode_decodeBus (T : Desc) (d : Word) :
    encode (decodeBus T d) = some (.bus T (if descWe T then d else 0#32)) := by
  rcases decodeBus_cases T d with ⟨-, hop⟩ | ⟨r, hT, -, hop⟩ | ⟨w, i, -, hT, -, hop⟩ <;> rw [hop]
  · rw [encode, mkDesc_fields]
  · rw [encode_register, ← hT]
  · rw [encode_buffer, ← hT]

/-! ## The obligations -/

/-- Settles O1: format by format, the decoder's tests find the fields the encoder wrote. -/
theorem decodeInvertsEncode : Obligations.DecodeInvertsEncode :=
  fun _ _ hwf henc => decode_of_encode hwf henc

/-- Settles O2: each of the three kinds of transaction keeps its fields in the operation it selects. -/
theorem encodeInvertsBusDecode : Obligations.EncodeInvertsBusDecode :=
  fun T d => ⟨wellFormed_decodeBus T d, encode_decodeBus T d⟩

/-- Settles O3: each written-out word has the fields that its operation's encoding names. -/
theorem writtenOutWordsDecode : Obligations.WrittenOutWordsDecode := by
  refine ⟨fun d => ⟨?_, ?_, ?_, ?_, ?_, ?_, ?_⟩, fun p n r => ⟨?_, ?_, ?_⟩, fun s => ⟨?_, ?_, ?_⟩⟩
  · exact decodeBus_of_writeDesc (r := .ctrl) (by decide) d
  · exact decodeBus_of_readDesc (by decide) d
  · exact decodeBus_of_readDesc (by decide) d
  · exact decodeBus_of_readDesc (by decide) d
  · exact decodeBus_buffer false .w2 2#21 d (by decide)
  · exact decodeBus_buffer true .w4 0#21 d (by decide)
  · exact decodeBus_illegal false 0#2 8#22 d (by decide)
  · exact decode_bandCode .tri p n r
  · exact decode_reservedBand (by decide) p n r
  · exact decode_reservedBand (by decide) p n r
  · exact decode_fm (c := 2#2) (by decide) s
  · exact decode_am (c := 1#2) (by decide) s
  · exact decode_mul (c := 1#2) (by decide) s

end Sys2Proof.Machine
end

section
/-! PROOF. Rounding to the nearest pattern as an order: it is monotone, it keeps the values between two that round to the same
pattern, it commutes with the sign, and it is exact on the values of patterns (R13). -/

open Sys2Proof

namespace Sys2Proof.Machine

/-! ## The nearer of two points -/

section Nearer

variable {K : Type*} [Field K] [LinearOrder K] [IsStrictOrderedRing K] {v p q : K} (h : p < q)
include h

/-- The points nearer to the lower of two points are those up to the midpoint. -/
theorem abs_sub_lower_le_iff : |v - p| ≤ |v - q| ↔ v + v ≤ p + q := by
  rw [← sq_le_sq]
  constructor <;> intro hle <;> nlinarith

/-- The points nearer to the upper of two points are those from the midpoint on. -/
theorem abs_sub_upper_le_iff : |v - q| ≤ |v - p| ↔ p + q ≤ v + v := by
  rw [← sq_le_sq]
  constructor <;> intro hle <;> nlinarith

theorem abs_sub_eq_abs_sub_iff : |v - p| = |v - q| ↔ v + v = p + q := by
  rw [le_antisymm_iff, abs_sub_lower_le_iff h, abs_sub_upper_le_iff h, ← le_antisymm_iff]

end Nearer

/-! ## Magnitudes -/

/-- A larger value has no smaller nearest pattern. -/
theorem IsNearestMag.mono {v w : ℚ} {m n : Nat} (hm : IsNearestMag v m) (hn : IsNearestMag w n) (hvw : v < w) : m ≤ n := by
  by_contra hlt
  have hU : (magUnits n : ℚ) < magUnits m := by exact_mod_cast magUnits_strictMono (Nat.lt_of_not_le hlt)
  have hv := (abs_sub_upper_le_iff hU).mp (hm n).1
  have hw := (abs_sub_lower_le_iff hU).mp (hn m).1
  linarith

/-- The value of a pattern rounds to that pattern. -/
theorem roundRatio_magUnits {m d : Nat} (hm : m < infMag) (hd : 0 < d) : roundRatio (magUnits m * d) d = m := by
  obtain ⟨hle, -⟩ := isNearestMag_round (num := magUnits m * d) hd m
  have hvalue : ((magUnits m * d : ℕ) : ℚ) / d = magUnits m := by
    rw [Nat.cast_mul, mul_div_cancel_right₀ _ (by exact_mod_cast hd.ne')]
  rw [hvalue, sub_self, abs_zero, abs_nonpos_iff, sub_eq_zero, Nat.cast_inj] at hle
  rw [roundRatio_eq, ← magUnits_strictMono.injective hle, Nat.min_eq_left hm.le]

/-- From one unit on a quotient does not round to zero. -/
theorem roundRatio_ne_zero {num den : Nat} (hd : 0 < den) (h : den ≤ num) : roundRatio num den ≠ 0 := by
  intro h0
  have hnear := isNearestMag_round (num := num) hd
  have hzero : roundShift num den * 2 ^ 23 + rneDiv num (den * 2 ^ roundShift num den) = 0 := by
    rw [roundRatio_eq, infMag] at h0
    omega
  have hone : magUnits 0 < magUnits 1 := magUnits_strictMono one_pos
  have hv : (1 : ℚ) ≤ num / den := (one_le_div₀ (by exact_mod_cast hd)).mpr (by exact_mod_cast h)
  rw [hzero] at hnear
  have hhalf := (abs_sub_lower_le_iff (by exact_mod_cast hone)).mp (hnear 1).1
  rw [magUnits_zero, show magUnits 1 = 1 by decide] at hhalf
  norm_num at hhalf
  linarith

/-- The units of a pattern by its significand, up to the first pattern of the next binade. -/
theorem cast_magUnits_binade {sh m : Nat} (hlow : 2 ^ 23 ≤ m) (hm : m ≤ 2 ^ 24) :
    (magUnits (sh * 2 ^ 23 + m) : ℚ) = m * 2 ^ sh := by
  rw [magUnits_binade hm (.inr hlow), Nat.cast_mul, Nat.cast_pow, Nat.cast_ofNat]

/-- The next pattern is at least one unit of the significand higher. -/
theorem add_one_mul_le_magUnits {sh m : Nat} (hlow : 2 ^ 23 ≤ m) (hm : m ≤ 2 ^ 24) :
    ((m + 1) * 2 ^ sh : ℚ) ≤ magUnits (sh * 2 ^ 23 + m + 1) := by
  rcases Nat.lt_or_ge m (2 ^ 24) with hlt | hge
  · rw [Nat.add_assoc, cast_magUnits_binade (by omega) hlt, Nat.cast_add_one]
  · obtain rfl : m = 2 ^ 24 := by omega
    have hu : (0 : ℚ) < 2 ^ sh := by positivity
    rw [show sh * 2 ^ 23 + 2 ^ 24 + 1 = (sh + 1) * 2 ^ 23 + (2 ^ 23 + 1) by ring,
      cast_magUnits_binade (by decide) (by decide), pow_succ (2 : ℚ) sh]
    push_cast
    linarith

/-- A value within half a unit of a 24-bit significand `m`, at exponent offset `sh`, rounds to the pattern of `m`. -/
theorem isNearestMag_of_within {sh m : Nat} {v : ℚ} (hm : m ≤ 2 ^ 24) (hv : 2 ^ 23 * 2 ^ sh ≤ v)
    (hlow : 2 * m * 2 ^ sh < 2 * v + 2 ^ sh) (hhigh : 2 * v < (2 * m + 1) * 2 ^ sh) : IsNearestMag v (sh * 2 ^ 23 + m) := by
  have hu : (0 : ℚ) < 2 ^ sh := by positivity
  have hm23 : 2 ^ 23 ≤ m := by
    have hlt : (2 * 2 ^ 23 : ℚ) < 2 * m + 1 := lt_of_mul_lt_mul_right (by linarith) hu.le
    have hlt' : 2 * 2 ^ 23 < 2 * m + 1 := by exact_mod_cast hlt
    omega
  have hmag := cast_magUnits_binade (sh := sh) hm23 hm
  rcases le_or_gt (m * 2 ^ sh : ℚ) v with hle | hgt
  · have hnext := add_one_mul_le_magUnits (sh := sh) hm23 hm
    refine isNearestMag_lower (hmag.trans_le hle) (by linarith) (.inl ?_)
    rw [hmag]
    linarith
  · obtain ⟨q, rfl⟩ : ∃ q, m = q + 1 := ⟨m - 1, by omega⟩
    have hq : 2 ^ 23 < q + 1 := by exact_mod_cast lt_of_mul_lt_mul_right (hv.trans_lt hgt) hu.le
    have hprev := cast_magUnits_binade (sh := sh) (Nat.le_of_lt_succ hq) (Nat.le_of_lt hm)
    rw [← Nat.add_assoc] at hmag ⊢
    rw [Nat.cast_add_one] at hmag hlow hgt
    refine isNearestMag_upper (by rw [hprev]; linarith) (hgt.le.trans_eq hmag.symm) (.inl ?_)
    rw [hprev, hmag]
    linarith

/-! ## Patterns -/

/-- `RN` of a rational (R13) is its correct rounding. -/
theorem nearestEven_fOfRatio (neg : Bool) (num : Nat) {den : Nat} (hd : 0 < den) :
    NearestEven ((signed neg (num / den) : ℚ) : ℝ) (fOfRatio neg num den) := by
  have h := nearestEven_roundRatio neg (num := num * 2 ^ 149) hd
  rwa [← signed_div, Nat.cast_mul, Nat.cast_pow, Nat.cast_ofNat, div_right_comm, mul_div_cancel_right₀ _ (by positivity)] at h

theorem fOfRatio_neg (num den : Nat) : fOfRatio true num den = fneg (fOfRatio false num den) := by
  have hlt := roundRatio_lt (num * 2 ^ 149) den
  apply F_ext
  · rw [fSign_fneg, fOfRatio, fOfRatio, fSign_withSign hlt, fSign_withSign hlt, Bool.not_false]
  · rw [fMag_fneg, fOfRatio, fOfRatio, fMag_withSign hlt, fMag_withSign hlt]

/-- Of two finite patterns, `x` is at least as near to `v` as `y`, and has an even fraction if `y` is as near. -/
def NearerEven (v : ℝ) (x y : F) : Prop :=
  |v - ((fValue x : ℚ) : ℝ)| ≤ |v - ((fValue y : ℚ) : ℝ)| ∧
    (|v - ((fValue x : ℚ) : ℝ)| = |v - ((fValue y : ℚ) : ℝ)| → fValue y ≠ fValue x → x.getLsbD 0 = false)

section Patterns

variable {a v b : ℝ} {x y : F}

/-- Being rounded to a finite pattern. -/
theorem nearestEven_iff_of_isFinite (hx : isFinite x = true) :
    NearestEven v x ↔ |v| < (overflowBound : ℚ) ∧ ∀ y : F, isFinite y = true → NearerEven v x y := by
  rw [NearestEven]
  split
  · rename_i hover
    simp [isInf_of_isFinite hx, not_lt.mpr hover]
  · rename_i hover
    simp [hx, not_le.mp hover, NearerEven]

/-- Being rounded to a pattern that is not finite. -/
theorem nearestEven_iff_of_not_isFinite (hx : isFinite x = false) :
    NearestEven v x ↔ ((overflowBound : ℚ) : ℝ) ≤ |v| ∧ isInf x = true ∧ (fSign x = true ↔ v < 0) := by
  rw [NearestEven]
  split
  · rename_i hover
    simp only [hover, true_and]
  · rename_i hover
    simp [hx, hover]

/-- A value below the overflow bound rounds to a finite pattern. -/
theorem NearestEven.isFinite (h : NearestEven v x) (hv : |v| < (overflowBound : ℚ)) : isFinite x = true := by
  by_contra hx
  exact absurd ((nearestEven_iff_of_not_isFinite (Bool.not_eq_true _ ▸ hx)).mp h).1 (not_le.mpr hv)

theorem NearerEven.of_between (ha : NearerEven a x y) (hb : NearerEven b x y) (hav : a ≤ v) (hvb : v ≤ b) :
    NearerEven v x y := by
  obtain ⟨hale, hatie⟩ := ha
  obtain ⟨hble, hbtie⟩ := hb
  rcases lt_trichotomy (fValue x) (fValue y) with hxy | hxy | hxy
  · have hxy' : ((fValue x : ℚ) : ℝ) < (fValue y : ℚ) := by exact_mod_cast hxy
    rw [abs_sub_lower_le_iff hxy'] at hble
    rw [abs_sub_eq_abs_sub_iff hxy'] at hbtie
    rw [NearerEven, abs_sub_lower_le_iff hxy', abs_sub_eq_abs_sub_iff hxy']
    exact ⟨by linarith, fun e => hbtie (by linarith)⟩
  · rw [NearerEven, hxy]
    exact ⟨le_rfl, fun _ hne => absurd rfl hne⟩
  · have hxy' : ((fValue y : ℚ) : ℝ) < (fValue x : ℚ) := by exact_mod_cast hxy
    rw [abs_sub_upper_le_iff hxy'] at hale
    rw [eq_comm, abs_sub_eq_abs_sub_iff hxy'] at hatie
    rw [NearerEven, abs_sub_upper_le_iff hxy', eq_comm, abs_sub_eq_abs_sub_iff hxy']
    exact ⟨by linarith, fun e => hatie (by linarith)⟩

/-- A value between two that round to the same pattern rounds to it too. -/
theorem NearestEven.of_between (ha : NearestEven a x) (hb : NearestEven b x) (hav : a ≤ v) (hvb : v ≤ b) :
    NearestEven v x := by
  cases hx : Machine.isFinite x with
  | true =>
    rw [nearestEven_iff_of_isFinite hx] at *
    obtain ⟨hoa, hna⟩ := ha
    obtain ⟨hob, hnb⟩ := hb
    exact ⟨(abs_le_max_abs_abs hav hvb).trans_lt (max_lt hoa hob),
      fun y hy => (hna y hy).of_between (hnb y hy) hav hvb⟩
  | false =>
    rw [nearestEven_iff_of_not_isFinite hx] at *
    obtain ⟨hoa, hinf, hsa⟩ := ha
    obtain ⟨hob, -, hsb⟩ := hb
    refine ⟨?_, hinf, fun hs => hvb.trans_lt (hsb.mp hs), fun hv => hsa.mpr (hav.trans_lt hv)⟩
    rcases lt_or_ge b 0 with hneg | hpos
    · rw [abs_of_neg hneg] at hob
      rw [abs_of_neg (hvb.trans_lt hneg)]
      linarith
    · have ha0 : 0 ≤ a := not_lt.mp fun h => absurd (hsb.mp (hsa.mpr h)) (not_lt.mpr hpos)
      rw [abs_of_nonneg ha0] at hoa
      rw [abs_of_nonneg (ha0.trans hav)]
      linarith

theorem NearerEven.neg (h : NearerEven v x (fneg y)) : NearerEven (-v) (fneg x) y := by
  have habs : ∀ w : ℝ, |-v - w| = |v - -w| := fun w => by rw [← abs_neg, neg_sub', neg_neg]
  obtain ⟨hle, htie⟩ := h
  rw [fValue_fneg] at hle htie
  push_cast at hle htie
  rw [NearerEven, fValue_fneg, show (fneg x).getLsbD 0 = x.getLsbD 0 by simp [fneg]]
  push_cast
  rw [habs, habs, neg_neg]
  exact ⟨hle, fun e hne => htie e fun h => hne (by rw [← h, neg_neg])⟩

/-- Rounding to nearest even commutes with the sign. -/
theorem NearestEven.neg (h : NearestEven v x) : NearestEven (-v) (fneg x) := by
  cases hx : Machine.isFinite x with
  | true =>
    rw [nearestEven_iff_of_isFinite hx] at h
    obtain ⟨hover, hnear⟩ := h
    rw [nearestEven_iff_of_isFinite ((isFinite_fneg x).trans hx), abs_neg]
    exact ⟨hover, fun y hy => (hnear (fneg y) ((isFinite_fneg y).trans hy)).neg⟩
  | false =>
    rw [nearestEven_iff_of_not_isFinite hx] at h
    obtain ⟨hover, hinf, hsign⟩ := h
    have hv : v ≠ 0 := by
      rintro rfl
      norm_num [overflowBound] at hover
    rw [nearestEven_iff_of_not_isFinite ((isFinite_fneg x).trans hx), abs_neg, isInf, fMag_fneg, fSign_fneg, Bool.not_eq_true',
      ← Bool.not_eq_true, hsign, not_lt, neg_lt_zero]
    exact ⟨hover, hinf, fun h0 => lt_of_le_of_ne h0 hv.symm, le_of_lt⟩

end Patterns

/-! ## Exact operations -/

section Exact

variable {x : F} (hx : isFinite x = true)
include hx

/-- A product with 1.0 is exact. -/
theorem fmul_fOne : fmul fOne x = x := by
  rw [fmul_of_finite (by decide) hx, show fMagUnits fOne = 2 ^ 149 by decide, show fSign fOne = false by decide, fMagUnits_eq,
    Nat.mul_comm, roundRatio_magUnits (of_decide_eq_true hx) (by positivity), Bool.false_bne, withSign_fMag]

/-- A sum of +0.0 and a value other than -0.0 is exact. -/
theorem fadd_fZero (h0 : fSign x = true → fMag x ≠ 0) : fadd fZero x = x := by
  have hround : roundRatio (fMagUnits x) 1 = fMag x := by
    simpa [fMagUnits_eq] using roundRatio_magUnits (of_decide_eq_true hx) one_pos
  rw [fadd, fsum_of_finite (by decide) hx, show fUnits fZero = 0 by decide, zero_add, fUnits]
  cases hs : fSign x with
  | true =>
    have hpos : 0 < fMagUnits x := Nat.pos_of_ne_zero fun h => h0 hs ((fMagUnits_eq_zero_iff x).mp h)
    rw [if_pos rfl, if_neg (by omega), decide_eq_true (by omega), Int.natAbs_neg, Int.natAbs_natCast, hround, ← hs, withSign_fMag]
  | false =>
    rw [if_neg Bool.false_ne_true, decide_eq_false (by omega), Int.natAbs_natCast, hround, Bool.and_false]
    split
    · rename_i hz
      rw [← (fMagUnits_eq_zero_iff x).mp (by omega), ← hs, withSign_fMag]
    · rw [← hs, withSign_fMag]

end Exact

end Sys2Proof.Machine
end

section
/-! PROOF. How near the integer computation of the sine table is to the real sine (R100), in units of 2^-128. Three errors add up:
that of the angle (2^62 units, from the first 20 decimals of pi), that of the Taylor polynomial, and that of the truncation of each
term to an integer. -/

open Sys2Proof

namespace Sys2Proof.Machine

/-! ## The Taylor polynomial that `sineTail` computes -/

/-- `n + 1` terms of the sine series from the term of degree `i` on, over that term; `y` is the square of the angle. -/
noncomputable def sineSeries (y : ℝ) : Nat → Nat → ℝ
  | 0, _ => 1
  | n + 1, i => 1 - y / ((i + 1) * (i + 2)) * sineSeries y n (i + 2)

theorem sineSeries_mem_Icc {y : ℝ} (h0 : 0 ≤ y) (h6 : y ≤ 6) (n : Nat) {i : Nat} (hi : 1 ≤ i) :
    0 ≤ sineSeries y n i ∧ sineSeries y n i ≤ 1 := by
  induction n generalizing i with
  | zero => simp [sineSeries]
  | succ n ih =>
    obtain ⟨hs0, hs1⟩ := ih (i := i + 2) (by omega)
    have hi' : (1 : ℝ) ≤ i := by exact_mod_cast hi
    have hq0 : 0 ≤ y / ((i + 1) * (i + 2)) := by positivity
    have hq1 : y / ((i + 1) * (i + 2)) ≤ 1 := (div_le_one (by positivity)).mpr (by nlinarith)
    rw [sineSeries]
    exact ⟨sub_nonneg.mpr (mul_le_one₀ hq1 hs0 hs1), sub_le_self _ (mul_nonneg hq0 hs0)⟩

theorem sineSeries_eq_sum (y : ℝ) (n i : Nat) :
    sineSeries y n i = ∑ m ∈ Finset.range (n + 1), (-1) ^ m * (y ^ m * i.factorial / (i + 2 * m).factorial) := by
  induction n generalizing i with
  | zero => simp [sineSeries, Nat.factorial_ne_zero]
  | succ n ih =>
    have hhead : ((-1) ^ 0 * (y ^ 0 * i.factorial / (i + 2 * 0).factorial) : ℝ) = 1 := by
      simp [Nat.factorial_ne_zero]
    rw [sineSeries, ih, Finset.mul_sum, Finset.sum_range_succ' _ (n + 1), hhead, sub_eq_neg_add, ← Finset.sum_neg_distrib]
    congr 1
    refine Finset.sum_congr rfl fun m _ => ?_
    rw [show i + 2 * (m + 1) = i + 2 + 2 * m by ring, Nat.factorial_succ (i + 1), Nat.factorial_succ i]
    push_cast
    field_simp
    ring

theorem mul_sineSeries_eq_sum (x : ℝ) (n : Nat) : x * sineSeries (x ^ 2) n 1 =
    ∑ m ∈ Finset.range (n + 1), (-1) ^ m * (x ^ (2 * m + 1) / (2 * m + 1).factorial) := by
  rw [sineSeries_eq_sum, Finset.mul_sum]
  refine Finset.sum_congr rfl fun m _ => ?_
  rw [Nat.factorial_one, Nat.add_comm 1]
  push_cast
  ring

/-- The terms of the sine series fall from the first on. -/
theorem antitone_sineTerms {x : ℝ} (h0 : 0 ≤ x) (h6 : x ^ 2 ≤ 6) :
    Antitone fun m : ℕ => x ^ (2 * m + 1) / (2 * m + 1).factorial := by
  refine antitone_nat_of_succ_le fun m => ?_
  rw [show 2 * (m + 1) + 1 = 2 * m + 1 + 1 + 1 by ring, Nat.factorial_succ (2 * m + 1 + 1), Nat.factorial_succ (2 * m + 1)]
  push_cast
  rw [div_le_div_iff₀ (by positivity) (by positivity)]
  have hm : (6 : ℝ) ≤ (2 * m + 1 + 1 + 1) * (2 * m + 1 + 1) := by nlinarith [(Nat.cast_nonneg m : (0 : ℝ) ≤ m)]
  calc x ^ (2 * m + 1 + 1 + 1) * ((2 * m + 1).factorial : ℝ)
      = x ^ (2 * m + 1) * (2 * m + 1).factorial * x ^ 2 := by ring
    _ ≤ x ^ (2 * m + 1) * (2 * m + 1).factorial * ((2 * m + 1 + 1 + 1) * (2 * m + 1 + 1)) := by gcongr; linarith
    _ = _ := by ring

/-- The polynomial of degree 27 is within its first omitted term of the sine. -/
theorem sineSeries_error {x : ℝ} (h0 : 0 ≤ x) (h6 : x ^ 2 ≤ 6) :
    |Real.sin x - x * sineSeries (x ^ 2) 13 1| ≤ x ^ 29 / (29).factorial := by
  have hsum : Summable fun m : ℕ => x ^ (2 * m + 1) / (2 * m + 1).factorial :=
    (Real.summable_pow_div_factorial x).comp_injective fun a b hab => by simpa using hab
  rw [mul_sineSeries_eq_sum, Real.sin_eq_tsum]
  simpa only [mul_div_assoc] using alternating_series_error_bound _ (antitone_sineTerms h0 h6) hsum 14

/-! ## Truncation to integers -/

/-- A truncated quotient is less than one below the exact one. -/
theorem natDiv_bounds (n : Nat) {d : Nat} (hd : 0 < d) :
    ((n / d : ℕ) : ℝ) * d ≤ n ∧ (n : ℝ) < ((n / d : ℕ) + 1) * d :=
  ⟨by exact_mod_cast Nat.div_mul_le_self n d, by exact_mod_cast Nat.lt_mul_of_div_lt (Nat.lt_succ_self (n / d)) hd⟩

theorem sineTail_le (x2 n i t : Nat) : sineTail x2 n i t ≤ t := by
  cases n with
  | zero => exact le_rfl
  | succ n => exact Nat.sub_le _ _

/-- A square of an angle of at most 6 in units of 2^-128, truncated, and the angle's exact square. -/
structure IsSquare128 (x2 : Nat) (y : ℝ) : Prop where
  le : (x2 : ℝ) ≤ y * 2 ^ 128
  lt : y * 2 ^ 128 < x2 + 1
  nonneg : 0 ≤ y
  le_six : y ≤ 6

theorem isSquare128 {x : Nat} {X : ℝ} (hX : (x : ℝ) = 2 ^ 128 * X) (h0 : 0 ≤ X) (h1 : X ≤ 8 / 5) :
    IsSquare128 (x * x / 2 ^ sineScale) (X ^ 2) := by
  obtain ⟨hlow, hhigh⟩ := natDiv_bounds (x * x) (d := 2 ^ 128) (by positivity)
  rw [Nat.cast_mul, hX, Nat.cast_pow, Nat.cast_ofNat] at hlow hhigh
  rw [sineScale]
  exact ⟨by linarith, by linarith, by positivity, (pow_le_pow_left₀ h0 h1 2).trans (by norm_num)⟩

section Tail

variable {x2 i t : Nat} {y : ℝ} (hy : IsSquare128 x2 y) (hi : 1 ≤ i) (ht : t ≤ 2 ^ 129)
include hy hi

/-- The next term of the series is no larger. -/
theorem nextTerm_le : t * x2 / 2 ^ sineScale / ((i + 1) * (i + 2)) ≤ t := by
  have hx2 : x2 ≤ 6 * 2 ^ 128 := by
    have : (x2 : ℝ) ≤ 6 * 2 ^ 128 := hy.le.trans (by linarith [hy.le_six])
    exact_mod_cast this
  rw [Nat.div_div_eq_div_mul]
  apply Nat.div_le_of_le_mul
  calc t * x2 ≤ t * (6 * 2 ^ 128) := by gcongr
    _ ≤ t * ((i + 1) * (i + 2) * 2 ^ 128) := by gcongr; nlinarith
    _ = 2 ^ sineScale * ((i + 1) * (i + 2)) * t := by rw [sineScale]; ring

include ht

/-- Two truncations, of the square and of the term, move the next term by two units at most. -/
theorem nextTerm_error :
    |((t * x2 / 2 ^ sineScale / ((i + 1) * (i + 2)) : ℕ) : ℝ) - t * (y / ((i + 1) * (i + 2)))| ≤ 2 := by
  have hD : (0 : ℝ) < 2 ^ 128 * ((i + 1) * (i + 2)) := by positivity
  have htD : (t : ℝ) ≤ 2 ^ 128 * ((i + 1) * (i + 2)) := by
    have hi' : (1 : ℝ) ≤ i := by exact_mod_cast hi
    have ht' : (t : ℝ) ≤ 2 ^ 129 := by exact_mod_cast ht
    nlinarith
  obtain ⟨hlow, hhigh⟩ := natDiv_bounds (t * x2) (d := 2 ^ 128 * ((i + 1) * (i + 2))) (by positivity)
  rw [Nat.div_div_eq_div_mul, sineScale]
  generalize t * x2 / (2 ^ 128 * ((i + 1) * (i + 2))) = q at *
  push_cast at hlow hhigh
  have hsq : (t : ℝ) * x2 ≤ t * (y * 2 ^ 128) := by gcongr; exact hy.le
  have hsq' : (t : ℝ) * (y * 2 ^ 128) ≤ t * (x2 + 1) := by gcongr; exact hy.lt.le
  have hbelow : (q : ℝ) ≤ t * (y * 2 ^ 128) / (2 ^ 128 * ((i + 1) * (i + 2))) := (le_div_iff₀ hD).mpr (by linarith)
  have habove : t * (y * 2 ^ 128) / (2 ^ 128 * ((i + 1) * (i + 2))) ≤ (q : ℝ) + 2 := (div_le_iff₀ hD).mpr (by linarith)
  rw [show (t * (y / ((i + 1) * (i + 2))) : ℝ) = t * (y * 2 ^ 128) / (2 ^ 128 * ((i + 1) * (i + 2))) by field_simp, abs_le]
  constructor <;> linarith

/-- Each term adds two units to the error of the ones after it. -/
theorem sineTail_error (n : Nat) : |(sineTail x2 n i t : ℝ) - t * sineSeries y n i| ≤ 2 * n := by
  induction n generalizing i t with
  | zero => simp [sineTail, sineSeries]
  | succ n ih =>
    have hle := nextTerm_le (t := t) hy hi
    have herr := nextTerm_error hy hi ht
    rw [sineTail, sineSeries]
    generalize t * x2 / 2 ^ sineScale / ((i + 1) * (i + 2)) = t' at *
    obtain ⟨hs0, hs1⟩ := sineSeries_mem_Icc hy.nonneg hy.le_six n (i := i + 2) (by omega)
    have htail := ih (i := i + 2) (t := t') (by omega) (hle.trans ht)
    rw [Nat.cast_sub ((sineTail_le _ _ _ _).trans hle)]
    have hsplit : ((t : ℝ) - sineTail x2 n (i + 2) t') - t * (1 - y / ((i + 1) * (i + 2)) * sineSeries y n (i + 2)) =
        -((sineTail x2 n (i + 2) t' - t' * sineSeries y n (i + 2)) +
          (t' - t * (y / ((i + 1) * (i + 2)))) * sineSeries y n (i + 2)) := by ring
    rw [hsplit, abs_neg, Nat.cast_succ, mul_add_one]
    refine (abs_add_le _ _).trans (add_le_add htail ?_)
    rw [abs_mul, abs_of_nonneg hs0]
    exact mul_le_of_le_one_right (abs_nonneg _) hs1 |>.trans herr

end Tail

/-! ## The table's angle -/

/-- The angle of k/65536 turn. -/
noncomputable def tableAngle (k : Nat) : ℝ := 2 * Real.pi * k / 65536

theorem piFixed_error : |(piFixed : ℝ) - 2 ^ 128 * Real.pi| ≤ 2 ^ 62 := by
  have hlow := Real.pi_gt_d20
  have hhigh := Real.pi_lt_d20
  rw [abs_le, piFixed]
  constructor <;> norm_num at * <;> linarith

section Angle

variable {j : Nat} (hj : j ≤ 16384)
include hj

theorem fixedAngle_error : |((piFixed * j / 32768 : ℕ) : ℝ) - 2 ^ 128 * tableAngle j| ≤ 2 ^ 62 := by
  have hj' : (j : ℝ) ≤ 16384 := by exact_mod_cast hj
  obtain ⟨hlow, hhigh⟩ := natDiv_bounds (piFixed * j) (d := 32768) (by decide)
  push_cast at hlow hhigh
  generalize piFixed * j / 32768 = x at *
  obtain ⟨hpi0, hpi1⟩ := abs_le.mp piFixed_error
  rw [tableAngle, abs_le]
  constructor <;> nlinarith

/-- The fixed-point angle is at most 1.6. -/
theorem fixedAngle_le : 5 * (piFixed * j / 32768) ≤ 8 * 2 ^ 128 :=
  calc 5 * (piFixed * j / 32768) ≤ 5 * (piFixed * 16384 / 32768) := by gcongr
    _ ≤ 8 * 2 ^ 128 := by decide

theorem sineQuarter_error : |(sineQuarter j : ℝ) - 2 ^ 128 * Real.sin (tableAngle j)| ≤ 2 ^ 63 := by
  have hangle := fixedAngle_error hj
  have hle := fixedAngle_le hj
  rw [sineQuarter]
  generalize piFixed * j / 32768 = x at *
  obtain ⟨X, hX⟩ : ∃ X : ℝ, (x : ℝ) = 2 ^ 128 * X := ⟨x / 2 ^ 128, by field_simp⟩
  have hX0 : 0 ≤ X := nonneg_of_mul_nonneg_right (hX ▸ Nat.cast_nonneg x) (by positivity)
  have hX1 : X ≤ 8 / 5 := by
    have : (5 * x : ℝ) ≤ 8 * 2 ^ 128 := by exact_mod_cast hle
    linarith
  have htail := sineTail_error (isSquare128 hX hX0 hX1) le_rfl (t := x) (by omega) 13
  have hseries := sineSeries_error hX0 ((pow_le_pow_left₀ hX0 hX1 2).trans (by norm_num))
  have hrem : X ^ 29 / (29).factorial ≤ 1 / 2 ^ 80 :=
    calc X ^ 29 / (29).factorial ≤ (8 / 5) ^ 29 / (29).factorial := by gcongr
      _ ≤ 1 / 2 ^ 80 := by norm_num [Nat.factorial]
  have hlip : 2 ^ 128 * |Real.sin X - Real.sin (tableAngle j)| ≤ 2 ^ 62 := by
    rw [hX, ← mul_sub, abs_mul, abs_of_pos (by positivity)] at hangle
    exact (mul_le_mul_of_nonneg_left (Real.abs_sin_sub_sin_le X _) (by positivity)).trans hangle
  rw [hX] at htail
  obtain ⟨htail0, htail1⟩ := abs_le.mp htail
  obtain ⟨hseries0, hseries1⟩ := abs_le.mp (hseries.trans hrem)
  have hlip0 := neg_abs_le (Real.sin X - Real.sin (tableAngle j))
  have hlip1 := le_abs_self (Real.sin X - Real.sin (tableAngle j))
  rw [abs_le]
  constructor <;> linarith

theorem sineQuarter_pos (h0 : 0 < j) : 0 < sineQuarter j := by
  have h0' : (1 : ℝ) ≤ j := by exact_mod_cast h0
  have hj' : (j : ℝ) ≤ 16384 := by exact_mod_cast hj
  have hpi := Real.pi_pos
  have hchord := Real.mul_le_sin (x := tableAngle j) (by unfold tableAngle; positivity) (by unfold tableAngle; nlinarith)
  have hslope : 2 / Real.pi * tableAngle j = 4 * j / 65536 := by
    rw [tableAngle]
    field_simp
    norm_num
  obtain ⟨herr, -⟩ := abs_le.mp (sineQuarter_error hj)
  rw [← @Nat.cast_pos ℝ]
  linarith

end Angle

end Sys2Proof.Machine
end

section
/-! PROOF. The sine table: correct rounding of every entry, and its symmetries (R100, R101). -/

open Sys2Proof

namespace Sys2Proof.Machine

/-! ## Sines by the addition theorem

How far a sine is from a boundary of rounding can only be found by evaluating it. The sines of all angles of the first quarter
are evaluated as sums of products of the sines of 128 coarse and 128 fine angles. -/

theorem sin_tableAngle_sub {a : Nat} (ha : a ≤ 16384) : Real.sin (tableAngle (16384 - a)) = Real.cos (tableAngle a) := by
  rw [← Real.sin_pi_div_two_sub, tableAngle, tableAngle, Nat.cast_sub ha]
  congr 1
  push_cast
  ring

/-- The sine of (a + b)/65536 turn in units of 2^-256, from four entries of the first quarter. -/
def sineSum (a b : Nat) : Nat := sineQuarter a * sineQuarter (16384 - b) + sineQuarter (16384 - a) * sineQuarter b

/-- A product of two sines that are each within 2^63 units of 2^-128. -/
theorem mul_error {p q P Q : ℝ} (hp : |p - 2 ^ 128 * P| ≤ 2 ^ 63) (hq : |q - 2 ^ 128 * Q| ≤ 2 ^ 63) (hP : |P| ≤ 1)
    (hQ : |Q| ≤ 1) : |p * q - 2 ^ 256 * (P * Q)| ≤ 2 ^ 193 := by
  have hq' : |q| ≤ 2 ^ 129 := by
    rw [abs_le] at *
    constructor <;> linarith
  calc |p * q - 2 ^ 256 * (P * Q)| = |(p - 2 ^ 128 * P) * q + 2 ^ 128 * P * (q - 2 ^ 128 * Q)| := by ring_nf
    _ ≤ |p - 2 ^ 128 * P| * |q| + 2 ^ 128 * |P| * |q - 2 ^ 128 * Q| := by
      refine (abs_add_le _ _).trans_eq ?_
      rw [abs_mul, abs_mul, abs_mul, abs_of_pos (by positivity : (0 : ℝ) < 2 ^ 128)]
    _ ≤ 2 ^ 63 * 2 ^ 129 + 2 ^ 128 * 1 * 2 ^ 63 := by gcongr
    _ ≤ 2 ^ 193 := by norm_num

theorem sineSum_error {a b : Nat} (ha : a ≤ 16384) (hb : b ≤ 16384) :
    |(sineSum a b : ℝ) - 2 ^ 256 * Real.sin (tableAngle (a + b))| ≤ 2 ^ 194 := by
  have hadd : tableAngle (a + b) = tableAngle a + tableAngle b := by
    rw [tableAngle, tableAngle, tableAngle]
    push_cast
    ring
  have hca := sineQuarter_error (Nat.sub_le 16384 a)
  have hcb := sineQuarter_error (Nat.sub_le 16384 b)
  rw [sin_tableAngle_sub ha] at hca
  rw [sin_tableAngle_sub hb] at hcb
  have h1 := mul_error (sineQuarter_error ha) hcb (Real.abs_sin_le_one _) (Real.abs_cos_le_one _)
  have h2 := mul_error hca (sineQuarter_error hb) (Real.abs_cos_le_one _) (Real.abs_sin_le_one _)
  rw [sineSum, hadd, Real.sin_add]
  push_cast
  rw [abs_le] at *
  constructor <;> linarith

/-! ## The check of the table -/

/-- Far more than the errors of the sums and of the table's sines, in units of 2^-256. -/
def sineMargin : Nat := 2 ^ 200

/-- The significand of a sum, rounded at `2 ^ sh` units of 2^-149. -/
def sumSignificand (sh x : Nat) : Nat := (2 * x + 2 ^ (sh + 107)) / 2 ^ (sh + 108)

/-- All values within the margin of a sum round to its significand at `2 ^ sh` units of 2^-149. -/
def roundsAlike (sh x : Nat) : Bool :=
  decide (2 ^ 23 * 2 ^ (sh + 107) + sineMargin ≤ x ∧ sumSignificand sh x ≤ 2 ^ 24 ∧
    2 * sumSignificand sh x * 2 ^ (sh + 107) + 2 * sineMargin < 2 * x + 2 ^ (sh + 107) ∧
    2 * x + 2 * sineMargin < (2 * sumSignificand sh x + 1) * 2 ^ (sh + 107))

/-- The check at the exponent offsets below a bound, from the largest. -/
def roundsAlikeBelow : Nat → Nat → Bool
  | 0, _ => false
  | sh + 1, x => roundsAlike sh x || roundsAlikeBelow sh x

/-- The pattern that `roundsAlike` speaks of. -/
theorem isNearestMag_of_roundsAlike {sh x : Nat} (h : roundsAlike sh x = true) {v : ℚ} (hlow : x - sineMargin ≤ v * 2 ^ 107)
    (hhigh : v * 2 ^ 107 ≤ x + sineMargin) : IsNearestMag v (sh * 2 ^ 23 + sumSignificand sh x) := by
  have hscale : (0 : ℚ) < 2 ^ 107 := by positivity
  obtain ⟨h23, h24, hbelow, habove⟩ := of_decide_eq_true h
  generalize sumSignificand sh x = m at *
  rw [← @Nat.cast_le ℚ] at h23
  rw [← @Nat.cast_lt ℚ] at hbelow habove
  push_cast [pow_add] at h23 hbelow habove
  refine isNearestMag_of_within h24 ?_ ?_ ?_
  · refine le_of_mul_le_mul_right ?_ hscale
    linarith
  · refine lt_of_mul_lt_mul_right ?_ hscale.le
    linarith
  · refine lt_of_mul_lt_mul_right ?_ hscale.le
    linarith

/-- If all values near a sum round alike, then the integer sine `S` near it rounds as the real value near it does. -/
theorem nearestEven_of_roundsAlike {sh x S : Nat} {v : ℝ} (h : roundsAlike sh x = true)
    (hv : |x - 2 ^ 256 * v| ≤ (sineMargin : ℝ)) (hxS : x < 2 ^ 128 * S + sineMargin) (hSx : 2 ^ 128 * S < x + sineMargin) :
    NearestEven v (fOfRatio false S (2 ^ sineScale)) := by
  obtain ⟨hv0, hv1⟩ := abs_le.mp hv
  have hx : (sineMargin : ℚ) ≤ x := by
    obtain ⟨h23, -⟩ := of_decide_eq_true h
    exact_mod_cast (Nat.le_add_left _ _).trans h23
  have hxS' : (x : ℚ) < 2 ^ 128 * S + sineMargin := by exact_mod_cast hxS
  have hSx' : 2 ^ 128 * S < (x + sineMargin : ℚ) := by exact_mod_cast hSx
  have hlow := isNearestMag_of_roundsAlike h (v := (x - sineMargin) / 2 ^ 107) (by field_simp; rfl)
    (by field_simp; linarith)
  have hhigh := isNearestMag_of_roundsAlike h (v := (x + sineMargin) / 2 ^ 107) (by field_simp; linarith)
    (by field_simp; rfl)
  have hround := isNearestMag_round (num := S * 2 ^ 149) (den := 2 ^ 128) (by positivity)
  have hvalue : ((S * 2 ^ 149 : ℕ) / (2 ^ 128 : ℕ) : ℚ) = 2 ^ 128 * S / 2 ^ 107 := by push_cast; ring
  rw [hvalue] at hround
  have hsame := le_antisymm (hlow.mono hround (by gcongr; linarith)) (hround.mono hhigh (by gcongr))
  have h0 : (0 : ℚ) ≤ (x - sineMargin) / 2 ^ 107 := div_nonneg (sub_nonneg.mpr hx) (by positivity)
  rw [fOfRatio, sineScale, roundRatio_eq, ← hsame]
  refine (nearestEven_withSign false h0 hlow).of_between (nearestEven_withSign false (by positivity) hhigh) ?_ ?_
  · simp only [signed, Bool.false_eq_true, if_false, div_div, ← pow_add]
    push_cast
    rw [div_le_iff₀ (by positivity)]
    linarith
  · simp only [signed, Bool.false_eq_true, if_false, div_div, ← pow_add]
    push_cast
    rw [le_div_iff₀ (by positivity)]
    linarith

theorem exists_roundsAlike {n x : Nat} (h : roundsAlikeBelow n x = true) : ∃ sh, roundsAlike sh x = true := by
  induction n with
  | zero => exact absurd h Bool.false_ne_true
  | succ sh ih =>
    rcases Bool.or_eq_true_iff.mp h with h | h
    · exact ⟨sh, h⟩
    · exact ih h

/-- No sine of the first quarter is near a boundary of rounding: one check for each of the 16 384 angles. The largest
exponent offset is 125: 1.0 is 2^24 units of 2^(125 - 149). -/
theorem sineSum_roundsAlike : ∀ a < 128, ∀ b < 128, roundsAlikeBelow 126 (sineSum (128 * a) (b + 1)) = true := by
  decide +kernel

theorem nearestEven_sineQuarter {j : Nat} (hj : j ≤ 16384) :
    NearestEven (Real.sin (tableAngle j)) (fOfRatio false (sineQuarter j) (2 ^ sineScale)) := by
  rcases Nat.eq_zero_or_pos j with rfl | hpos
  · have h := nearestEven_fOfRatio false 0 (den := 2 ^ sineScale) (by decide)
    simpa [signed, tableAngle, show sineQuarter 0 = 0 by decide] using h
  · obtain ⟨a, b, ha, hb, rfl⟩ : ∃ a b, a < 128 ∧ b < 128 ∧ j = 128 * a + (b + 1) :=
      ⟨(j - 1) / 128, (j - 1) % 128, by omega, by omega, by omega⟩
    obtain ⟨sh, hsh⟩ := exists_roundsAlike (sineSum_roundsAlike a ha b hb)
    have hsum := sineSum_error (a := 128 * a) (b := b + 1) (by omega) (by omega)
    obtain ⟨hj0, hj1⟩ := abs_le.mp (sineQuarter_error hj)
    obtain ⟨hs0, hs1⟩ := abs_le.mp hsum
    refine nearestEven_of_roundsAlike hsh (hsum.trans (by norm_num [sineMargin])) ?_ ?_
    · rw [← @Nat.cast_lt ℝ, sineMargin]
      push_cast
      linarith
    · rw [← @Nat.cast_lt ℝ, sineMargin]
      push_cast
      linarith

/-! ## The four quarters -/

theorem sineFold_le (k : Nat) : sineFold k ≤ 16384 := by
  simp only [sineFold]
  split <;> omega

/-- The first half of the table is positive. -/
theorem sine_of_le {k : Nat} (hk : k ≤ 32768) :
    sine (BitVec.ofNat 16 k) = fOfRatio false (sineQuarter (sineFold k)) (2 ^ sineScale) := by
  have hmod : (BitVec.ofNat 16 k).toNat = k := by rw [BitVec.toNat_ofNat, Nat.mod_eq_of_lt (by omega)]
  rw [sine, hmod, decide_eq_false (by omega)]

/-- The second half of the table is the first with the sign inverted. -/
theorem sine_half_add {k : Nat} (h0 : 0 < k) (hk : k < 32768) :
    sine (BitVec.ofNat 16 (32768 + k)) = fneg (sine (BitVec.ofNat 16 k)) := by
  have hmod : (BitVec.ofNat 16 (32768 + k)).toNat = 32768 + k := by rw [BitVec.toNat_ofNat, Nat.mod_eq_of_lt (by omega)]
  have hfold : sineFold (32768 + k) = sineFold k := by rw [sineFold, sineFold, Nat.add_mod_left]
  rw [sine_of_le hk.le, ← fOfRatio_neg, sine, hmod, decide_eq_true (by omega), hfold]

theorem sineFold_half_sub {k : Nat} (hk : k ≤ 32768) : sineFold (32768 - k) = sineFold k := by
  simp only [sineFold]
  split <;> split <;> omega

theorem sin_tableAngle_half_sub {k : Nat} (hk : k ≤ 32768) : Real.sin (tableAngle (32768 - k)) = Real.sin (tableAngle k) := by
  rw [← Real.sin_pi_sub, tableAngle, tableAngle, Nat.cast_sub hk]
  congr 1
  push_cast
  ring

theorem sin_tableAngle_half_add (k : Nat) : Real.sin (tableAngle (32768 + k)) = -Real.sin (tableAngle k) := by
  rw [← Real.sin_add_pi, tableAngle, tableAngle]
  congr 1
  push_cast
  ring

theorem nearestEven_sine_of_le {k : Nat} (hk : k ≤ 32768) : NearestEven (Real.sin (tableAngle k)) (sine (BitVec.ofNat 16 k)) := by
  have hsin : Real.sin (tableAngle k) = Real.sin (tableAngle (sineFold k)) := by
    rcases Nat.lt_or_ge 16384 k with hgt | hle
    · rcases hk.lt_or_eq with hlt | rfl
      · rw [sineFold, Nat.mod_eq_of_lt hlt, if_neg (by omega), sin_tableAngle_half_sub hk]
      · exact (sin_tableAngle_half_sub hk).symm
    · rw [sineFold, Nat.mod_eq_of_lt (by omega), if_pos hle]
  rw [sine_of_le hk, hsin]
  exact nearestEven_sineQuarter (sineFold_le k)

/-! ## The obligations -/

/-- Settles O27: the first half by the check of the first quarter, the second half by the sign. -/
theorem sineTableIsCorrectlyRounded : Obligations.SineTableIsCorrectlyRounded := by
  intro k
  show NearestEven (Real.sin (tableAngle k.toNat)) (sine k)
  obtain ⟨n, hn⟩ : ∃ n, k.toNat = n := ⟨_, rfl⟩
  obtain rfl : k = BitVec.ofNat 16 n := by rw [← hn, BitVec.ofNat_toNat, BitVec.setWidth_eq]
  rw [hn]
  rcases Nat.lt_or_ge 32768 n with hgt | hle
  · obtain ⟨m, rfl⟩ := Nat.exists_eq_add_of_lt hgt
    rw [Nat.add_assoc, sine_half_add (by omega) (by omega), sin_tableAngle_half_add]
    exact (nearestEven_sine_of_le (by omega)).neg
  · exact nearestEven_sine_of_le hle

/-- Settles O28: the lookup takes the low 16 bits, and the folded index is the same on both sides of each symmetry. -/
theorem sineLookupIsMaskedAndSymmetric : Obligations.SineLookupIsMaskedAndSymmetric := by
  refine ⟨fun s idx => ?_, fun k h0 hk => ?_, fun k hk => ?_⟩
  · have hidx : idx.extractLsb' 0 16 = BitVec.ofNat 16 (idx.toNat % 65536) := by
      apply BitVec.eq_of_toNat_eq
      simp
    rw [← hidx]
    rfl
  · rw [show 65536 - k = 32768 + (32768 - k) by omega, sine_half_add (by omega) (by omega), sine_of_le (Nat.sub_le _ _),
      sineFold_half_sub hk.le, ← sine_of_le hk.le]
    rfl
  · rw [sine_of_le (Nat.sub_le _ _), sineFold_half_sub hk, ← sine_of_le hk]

/-! ## Entries are finite and not -0.0 -/

theorem isFinite_sine (k : BitVec 16) : isFinite (sine k) = true := by
  refine (sineTableIsCorrectlyRounded k).isFinite ((Real.abs_sin_le_one _).trans_lt ?_)
  norm_num [overflowBound]

/-- No entry of the table is -0.0. -/
theorem fMag_sine_ne_zero {k : BitVec 16} (h : fSign (sine k) = true) : fMag (sine k) ≠ 0 := by
  have hlt := roundRatio_lt (sineQuarter (sineFold k.toNat) * 2 ^ 149) (2 ^ sineScale)
  rw [sine, fOfRatio] at h ⊢
  rw [fSign_withSign hlt, decide_eq_true_eq] at h
  rw [fMag_withSign hlt]
  have hfold : 0 < sineFold k.toNat := by
    have hk := k.isLt
    simp only [sineFold]
    split <;> omega
  have hpos := sineQuarter_pos (sineFold_le _) hfold
  refine roundRatio_ne_zero (by positivity) ?_
  calc 2 ^ sineScale ≤ 1 * 2 ^ 149 := by decide
    _ ≤ sineQuarter (sineFold k.toNat) * 2 ^ 149 := Nat.mul_le_mul_right _ hpos

end Sys2Proof.Machine
end

section
/-! PROOF. The waveform generator: weights, bands, the choice of a shape, and the harmonic series as their loops (R104, R105, R108,
R110 to R116). -/

open Sys2Proof

namespace Sys2Proof.Machine

/-! ## Weights (R104, R105) -/

/-- The table and the direct reciprocal are the same rounding (R106). -/
theorem w1_eq (h : Nat) : w1 h = fOfRatio false 1 h := by
  rw [w1, recip, ite_self]

/-- Settles O35: both weights are `RN` of a rational. -/
theorem weightsAreCorrectlyRounded : Obligations.WeightsAreCorrectlyRounded := by
  intro h hpos
  have hw1 := nearestEven_fOfRatio false 1 (show 0 < h from hpos)
  have hw2 := nearestEven_fOfRatio false 1 (Nat.mul_pos hpos hpos)
  rw [Nat.cast_one] at hw1 hw2
  rw [Nat.cast_mul] at hw2
  exact ⟨(w1_eq h).symm ▸ hw1, hw2⟩

/-! ## Bands (R108) -/

theorem exec_bandSelect (t : F) (s : State) :
    exec (.bandSelect t) s = .next { s with dp := { s.dp with band := bandOf t } } := rfl

theorem isNaN_bandThreshold : ∀ th ∈ bandThresholds, isNaN th = false :=
  List.forall_iff_forall_mem.mp (by decide)

theorem bandCode_bandOf (t : F) : (bandCode (bandOf t)).toNat = bandIndex t := by
  have hle : bandIndex t ≤ 5 := List.countP_le_length
  rw [bandOf]
  generalize bandIndex t = n at *
  interval_cases n <;> rfl

theorem bandOf_of_isNaN {t : F} (h : isNaN t = true) : bandOf t = .sine := by
  have h0 : bandIndex t = 0 := List.countP_eq_zero.mpr fun th _ => by simp [fge, fle, h]
  rw [bandOf, h0]
  rfl

theorem bandOf_of_isInf {t : F} (h : isInf t = true) : bandOf t = if fSign t then .sine else .impulse := by
  rw [← withSign_fMag t, of_decide_eq_true h, fSign_withSign (by decide)]
  cases fSign t <;> decide

theorem bandIndex_of_isFinite {t : F} (h : isFinite t = true) :
    bandIndex t = bandThresholds.countP fun th => decide (fValue th ≤ fValue t) := by
  refine List.countP_congr fun th hth => ?_
  rw [fge, fle_iff (isNaN_bandThreshold th hth) (isNaN_of_isFinite h), decide_eq_true_eq]

/-- Settles O30: each threshold is `RN` of a rational, and the band is by class of the shape parameter. -/
theorem bandCountsTheThresholds : Obligations.BandCountsTheThresholds := by
  refine ⟨fun k => ?_, fun s t => ⟨bandOf t, exec_bandSelect t s, bandOf_of_isNaN, bandOf_of_isInf, fun h => ?_⟩⟩
  · have hth : ∀ k : Fin 5, (#v[0x3E2AAAAB#32, 0x3EAAAAAB#32, 0x3F000000#32, 0x3F2AAAAB#32, 0x3F555555#32] : Vector F 5)[k] =
        fOfRatio false (k.val + 1) 6 := by decide
    rw [hth]
    exact_mod_cast nearestEven_fOfRatio false (k.val + 1) (den := 6) (by decide)
  · rw [bandCode_bandOf]
    exact bandIndex_of_isFinite h

/-! ## The selected shape (R110) -/

/-- What each shape operation returns. -/
theorem exec_decodeBand (b : Band) (p : Word) (n : Nat) (r : F) (s : State) :
    exec (decodeBand b p n r) s = .next { s with dp := { s.dp with y := genBand s.cfg b p n r } } := by
  cases b <;> rfl

theorem exec_gen (t : F) (p : Word) (r : F) (s : State) :
    exec (.gen t p r) s = .next { s with dp := { s.dp with y := genBand s.cfg (bandOf t) p (harmonicCount s.cfg r) r } } := rfl

/-- Settles O31: GEN returns what the shape of the band returns. -/
theorem genPerformsTheSelectedShape : Obligations.GenPerformsTheSelectedShape :=
  fun s t p r => ⟨_, _, _, exec_harmonicCount r s, exec_bandSelect t s,
    (exec_gen t p r s).trans (exec_decodeBand _ p _ r s).symm, exec_gen t p r s⟩

/-! ## Harmonic series as loops (R111 to R115) -/

/-- A loop over the harmonics `h`, `h + stride`, .. up to `n` is the sum over their positions, of which there are `m`. -/
theorem harmonicLoop_eq_foldl (body : Nat → F → F) {stride n fuel h m : Nat} (acc : F) (hfuel : m ≤ fuel)
    (hm : ∀ k, stride * k + h ≤ n ↔ k < m) :
    harmonicLoop body stride n fuel h acc = (List.range m).foldl (fun acc k => body (stride * k + h) acc) acc := by
  induction fuel generalizing h m acc with
  | zero =>
    obtain rfl : m = 0 := by omega
    rfl
  | succ fuel ih =>
    have h0 := hm 0
    rw [Nat.mul_zero, Nat.zero_add] at h0
    rw [harmonicLoop]
    cases m with
    | zero => rw [if_neg fun hle => Nat.lt_irrefl 0 (h0.mp hle), List.range_zero, List.foldl_nil]
    | succ m =>
      have hnext : ∀ k, stride * k + (h + stride) = stride * (k + 1) + h := fun k => by ring
      rw [if_pos (h0.mpr m.succ_pos), List.range_succ_eq_map, List.foldl_cons, List.foldl_map, Nat.mul_zero, Nat.zero_add,
        ih (m := m) _ (by omega) fun k => by rw [hnext, hm, Nat.succ_lt_succ_iff]]
      simp only [hnext]

/-- Settles O32: each sum runs over the positions of its loop's harmonics. -/
theorem harmonicSeriesFollowTheirLoops : Obligations.HarmonicSeriesFollowTheirLoops := by
  intro s p n
  refine ⟨?_, ?_, ?_, ?_, ?_⟩
  · have hidx : p.extractLsb' 16 16 = BitVec.ofNat 16 (p.toNat / 65536) := by
      apply BitVec.eq_of_toNat_eq
      simp [Nat.shiftRight_eq_div_pow]
    rw [← hidx]
    rfl
  · rw [harmonicLoop_eq_foldl (m := (n - 1) / 2) _ _ (by omega) (by omega)]
    rfl
  · rw [harmonicLoop_eq_foldl (m := (n + 1) / 2) _ _ (by omega) (by omega)]
    rfl
  · rw [harmonicLoop_eq_foldl (m := n) _ _ (by omega) (by omega)]
    simp only [Nat.one_mul]
    rfl
  · rw [harmonicLoop_eq_foldl (m := (n + 1) / 2) _ _ (by omega) (by omega)]
    simp only [Nat.add_sub_cancel, Nat.mul_div_cancel_left _ Nat.two_pos]
    rfl

/-! ## The impulse (R116) -/

theorem shapeImpulse_of_isNaN (cfg : Params) (p : Word) {r : F} (h : isNaN r = true) : shapeImpulse cfg p r = fZero := by
  have hge : ∀ th, fge r th = false := fun th => by simp [fge, fle, h]
  simp [shapeImpulse, hge]

/-- Settles O34: the ten partials in ascending order are the positions of the loop. -/
theorem impulseSumsTheGatedPartials : Obligations.ImpulseSumsTheGatedPartials := by
  refine fun s p r => ⟨shapeImpulse s.cfg p r, rfl, shapeImpulse_of_isNaN s.cfg p, ?_⟩
  rw [harmonicLoop_eq_foldl (m := 10) _ _ le_rfl (by omega), ← List.map_coe_finRange_eq_range, List.foldl_map, shapeImpulse]
  simp [addTerm, sineHarmonic]

/-! ## One harmonic (R112 to R115) -/

theorem hidx_one (p : Word) : hidx 1 p = p.extractLsb' 16 16 := by
  rw [hidx, Nat.one_mul, BitVec.ofNat_toNat, BitVec.setWidth_eq]

theorem shapeSine_eq (p : Word) : shapeSine p = sineHarmonic 1 p := by
  rw [shapeSine, sineHarmonic, hidx_one]

/-- The first term of a series, of weight 1.0, is the fundamental. -/
theorem addTerm_one (p : Word) : addTerm fOne 1 p fZero = sineHarmonic 1 p := by
  rw [addTerm, sineHarmonic, fmul_fOne (isFinite_sine _), fadd_fZero (isFinite_sine _) fMag_sine_ne_zero]

theorem w1_one : w1 1 = fOne := by decide +kernel

theorem w2_one : w2 1 = fOne := by decide +kernel

section OneHarmonic

variable {n : Nat}

theorem shapeSlant_of_le_two (p : Word) (hn : n ≤ 2) : shapeSlant p n = shapeSine p := by
  rw [shapeSine_eq, shapeSlant, show (n - 1) / 2 = 0 by omega, List.range_zero, List.foldl_nil]

theorem shapeSquare_of_le_two (p : Word) (h1 : 1 ≤ n) (h2 : n ≤ 2) : shapeSquare p n = shapeSine p := by
  rw [shapeSquare, show (n + 1) / 2 = 1 by omega, List.range_one, List.foldl_cons, List.foldl_nil, Nat.mul_zero, Nat.zero_add,
    w1_one, addTerm_one, shapeSine_eq]

theorem shapeSaw_one (p : Word) : shapeSaw p 1 = shapeSine p := by
  rw [shapeSaw, List.range_one, List.foldl_cons, List.foldl_nil, Nat.zero_add, w1_one, addTerm_one, shapeSine_eq]

theorem shapeTri_of_le_two (p : Word) (h1 : 1 ≤ n) (h2 : n ≤ 2) : shapeTri p n = shapeSine p := by
  rw [shapeTri, show (n + 1) / 2 = 1 by omega, List.range_one, List.foldl_cons, List.foldl_nil]
  dsimp only
  rw [Nat.zero_mod, if_pos rfl, Nat.mul_zero, Nat.zero_add, w2_one, ← addTerm, addTerm_one, shapeSine_eq]

/-- A shape operation that returns the plain sine is SHAPE_SINE. -/
theorem exec_decodeBand_eq_shapeSine {b : Band} {p : Word} {r : F} {s : State} (h : genBand s.cfg b p n r = shapeSine p) :
    exec (decodeBand b p n r) s = exec (.shapeSine p) s := by
  rw [exec_decodeBand, h]
  exact (exec_decodeBand .sine p n r s).symm

end OneHarmonic

/-- Settles O33: only the fundamental is in the series, and its weight and the sum with +0.0 are exact. -/
theorem oneHarmonicIsThePlainSine : Obligations.OneHarmonicIsThePlainSine := by
  intro s p n hn
  refine ⟨exec_decodeBand_eq_shapeSine (b := .slant) (r := fZero) ?_, exec_decodeBand_eq_shapeSine (b := .square) (r := fZero) ?_,
    exec_decodeBand_eq_shapeSine (b := .tri) (r := fZero) ?_, exec_decodeBand_eq_shapeSine (b := .saw) (r := fZero) ?_⟩
  · exact shapeSlant_of_le_two p (by omega)
  · exact shapeSquare_of_le_two p (by omega) (by omega)
  · exact shapeTri_of_le_two p (by omega) (by omega)
  · exact shapeSaw_one p

end Sys2Proof.Machine
end

section
/-! PROOF. The router and one oscillator: what each selector operation does, and OSC_EVAL as the sequence of them (R134 to
R149). -/

open Sys2Proof

namespace Sys2Proof.Machine

/-! ## The squish (R15, R134) -/

theorem tanhF_of_isNaN {x : F} (h : isNaN x = true) : tanhF x = nanOf .tanh x x := by
  rw [tanhF, if_pos h]

theorem tanhF_of_isInf {x : F} (h : isInf x = true) : tanhF x = if fSign x then fNegOne else fOne := by
  rcases isInf_cases h with rfl | rfl <;> rfl

theorem isZero_cases {x : F} (h : isZero x = true) : x = fZero ∨ x = 0x80000000#32 := by
  have hx := withSign_fMag x
  rw [of_decide_eq_true h] at hx
  cases hs : fSign x <;> rw [hs] at hx
  · exact .inl hx.symm
  · exact .inr hx.symm

theorem tanhF_of_isZero {x : F} (h : isZero x = true) : tanhF x = x := by
  rcases isZero_cases h with rfl | rfl <;> rfl

/-- The open values of TANH are at most 1.0 in magnitude, and so are those R15 fixes. -/
theorem fMag_tanhF_le {x : F} (h : isNaN x = false) : fMag (tanhF x) ≤ fMag fOne := by
  have hlt (m : Nat) : m % (fMag fOne + 1) ≤ fMag fOne := Nat.le_of_lt_succ (Nat.mod_lt m (Nat.succ_pos _))
  rw [tanhF, if_neg (by simp [h])]
  split
  · split <;> decide
  · split
    · rename_i h0
      rw [of_decide_eq_true h0]
      exact Nat.zero_le _
    · rw [fMag_withSign ((hlt _).trans_lt (by decide))]
      exact hlt _

/-- A magnitude at most that of 1.0 is in [0, 1]. -/
theorem inRange_fabs {x : F} (h : fMag x ≤ fMag fOne) : inRange fZero (fabs x) = true := by
  have hnan : isNaN (fabs x) = false := by
    rw [isNaN_fabs, isNaN, decide_eq_false_iff_not, not_lt]
    exact h.trans (by decide)
  have hkey : fKey (fabs x) = fMag x := by simp [fKey, fSign_fabs, fMag_fabs]
  have h0 : fKey fZero = 0 := by decide
  have h1 : fKey fOne = fMag fOne := by decide
  simp [inRange, fle, hnan, hkey, h0, h1, h, show isNaN fZero = false by decide, show isNaN fOne = false by decide]

theorem exec_squish (u : F) (s : State) : exec (.squish u) s = .next { s with dp := { s.dp with y := squish u } } := rfl

/-- Settles O36, by the class of the operand: NaN, infinity, zero, or a value of the open function. -/
theorem squishIsBounded : Obligations.SquishIsBounded := by
  refine ⟨⟨rfl, rfl, rfl, rfl, fun x h => ?_, fun x h => ?_⟩,
    fun s u => ⟨squish u, exec_squish u s, rfl, fun h => ?_, fun h => inRange_fabs (fMag_tanhF_le h), fun h => ?_, fun h => ?_⟩⟩
  · rw [tanhF_of_isNaN h, isNaN_nanOf]
  · exact (Bool.and_eq_true_iff.mp (inRange_fabs (fMag_tanhF_le (isNaN_of_isFinite h)))).2
  · rw [squish, isNaN_fabs, tanhF_of_isNaN h, isNaN_nanOf]
  · rw [squish, tanhF_of_isZero h]
    rcases isZero_cases h with rfl | rfl <;> rfl
  · rw [squish, tanhF_of_isInf h]
    split <;> rfl

/-! ## The selector operations (R135 to R148) -/

/-- Settles O37: the upstream sample is that of the slot's source, and the squish is the one SQUISH returns. -/
theorem selectorsChangeOneParameter : Obligations.SelectorsChangeOneParameter := by
  intro s k u q hu hq
  obtain rfl : squish u = q := by
    rw [exec_squish] at hq
    cases hq
    rfl
  subst hu
  exact ⟨rfl, rfl, rfl, rfl, rfl, rfl, rfl, rfl, rfl, rfl, rfl, rfl⟩

/-! ## The selected operations (R86, R87, R88) -/

/-- A sequence whose first operation completes goes on from the state it answers. -/
theorem andThen_of_next {o r : Result State} {s : State} {k : State → Result State} (ho : o = .next s) (hk : k s = r) :
    andThen o k = r := by
  rw [ho, ← hk, andThen]

section Selected

variable {s : State} {w : Vector (BitVec 6) 10}

theorem exec_decodeFm (h : s.patch.slot = w) (k : Fin 10) : exec (decodeFm (slotFm w[k]) k) s = .next (s.applyFm k) := by
  subst h
  unfold decodeFm State.applyFm
  dsimp only
  split_ifs <;> rfl

theorem exec_decodeAm (h : s.patch.slot = w) (k : Fin 10) : exec (decodeAm (slotAm w[k]) k) s = .next (s.applyAm k) := by
  subst h
  unfold decodeAm State.applyAm
  dsimp only
  split_ifs <;> rfl

theorem exec_decodeMul (h : s.patch.slot = w) (k : Fin 10) : exec (decodeMul (slotMul w[k]) k) s = .next (s.applyMul k) := by
  subst h
  unfold decodeMul State.applyMul
  dsimp only
  split_ifs <;> rfl

@[simp] theorem State.applyFm_patch (s : State) (k : Fin 10) : (s.applyFm k).patch = s.patch := by
  obtain ⟨_, _, _, h⟩ := s.applyFm_eq k
  rw [h, State.setDp_patch]

@[simp] theorem State.applyAm_patch (s : State) (k : Fin 10) : (s.applyAm k).patch = s.patch := by
  obtain ⟨_, _, _, h⟩ := s.applyAm_eq k
  rw [h, State.setDp_patch]

@[simp] theorem State.applyMul_patch (s : State) (k : Fin 10) : (s.applyMul k).patch = s.patch := by
  obtain ⟨_, h⟩ := s.applyMul_eq k
  rw [h, State.setDp_patch]

/-- The FM and AM operations that a list of slots selects, slot by slot, are the modulations. -/
theorem execAll_modulate (ks : List (Fin 10)) (h : s.patch.slot = w) :
    execAll (ks.flatMap fun k => [decodeFm (slotFm w[k]) k, decodeAm (slotAm w[k]) k]) s = .next (s.modulate ks) := by
  induction ks generalizing s with
  | nil => rfl
  | cons k ks ih =>
    exact andThen_of_next (exec_decodeFm h k) (andThen_of_next (exec_decodeAm (by simpa using h) k) (ih (by simpa using h)))

/-- The combine operations that a list of slots selects are the combination. -/
theorem execAll_combine (ks : List (Fin 10)) (h : s.patch.slot = w) :
    execAll (ks.map fun k => decodeMul (slotMul w[k]) k) s = .next (s.combine ks) := by
  induction ks generalizing s with
  | nil => rfl
  | cons k ks ih => exact andThen_of_next (exec_decodeMul h k) (ih (by simpa using h))

end Selected

/-! ## One oscillator (R149) -/

/-- The input slots of each oscillator, written out (R132). -/
theorem slotInputs_eq (n : Fin 8) :
    slotInputs n = (#v[[8, 9], [5, 6], [2, 3], [0], [7], [4], [1], []] : Vector (List (Fin 10)) 8)[n] := by
  revert n
  decide

theorem exec_phaseAdvance (n : Fin 8) (f : F) (s : State) : exec (.phaseAdvance n f) s = .next (s.phaseAdvance n f) := rfl

theorem exec_oscEval (n : Fin 8) (s : State) : exec (.oscEval n) s = .next (s.oscEval n) := rfl

theorem State.modulate_patch (ks : List (Fin 10)) (s : State) : (s.modulate ks).patch = s.patch := by
  obtain ⟨_, _, _, _, h⟩ := State.modulate_eq ks s
  rw [h, State.setDp_patch]

theorem State.modulate_render (ks : List (Fin 10)) (s : State) : (s.modulate ks).render = s.render := by
  obtain ⟨_, _, _, _, h⟩ := State.modulate_eq ks s
  rw [h, State.setDp_render]

/-- Settles O25: the selected operations before and after the generation are the modulations and the combination. -/
theorem oscEvalFollowsItsPseudocode : Obligations.OscEvalFollowsItsPseudocode := by
  intro s n
  dsimp only
  have hphase : ((s.loadBase n).modulate (slotInputs n)).render.phase[n] = s.render.phase[n] := by
    rw [State.modulate_render]
    rfl
  have hslot : (((s.loadBase n).modulate (slotInputs n)).generate n).patch.slot = s.patch.slot :=
    congrArg Patch.slot (State.modulate_patch (slotInputs n) (s.loadBase n))
  have hmod := execAll_modulate (slotInputs n) (s := s.loadBase n) (w := s.patch.slot) rfl
  have hmul := execAll_combine (slotInputs n) hslot
  rw [exec_oscEval, ← slotInputs_eq]
  symm
  refine andThen_of_next hmod ?_
  rw [← hphase]
  refine andThen_of_next (exec_gen _ _ _ _) (andThen_of_next hmul ?_)
  exact andThen_of_next (exec_phaseAdvance n _ _) rfl

/-- Settles O26: the phase and the output written are those of the oscillator evaluated. -/
theorem oscEvalChangesOnlyItsPhaseAndOutput : Obligations.OscEvalChangesOnlyItsPhaseAndOutput := by
  intro s n
  obtain ⟨p, d, g, ho, h⟩ := s.oscEval_eq n
  refine ⟨s.oscEval n, exec_oscEval n s, ?_⟩
  rw [h]
  refine ⟨rfl, fun m hm => ?_⟩
  have hne : n.val ≠ m.val := fun e => hm (Fin.ext e.symm)
  simp [ho, hne]

end Sys2Proof.Machine
end

section
/-! PROOF. The phase accumulator: the exact conversion of the sample rate, the rounding of an increment, and the advance (R150,
R151). -/

open Sys2Proof

namespace Sys2Proof.Machine

/-! ## Exact conversion of integers (R13) -/

/-- An integer of at most 24 bits is the value of a pattern. -/
theorem exists_magUnits_eq {n : Nat} (h : n < 2 ^ 24) : ∃ m < infMag, magUnits m = n * 2 ^ 149 := by
  rcases Nat.eq_zero_or_pos n with rfl | hpos
  · exact ⟨0, by decide, by decide⟩
  · have hlog : n.log2 ≤ 23 := Nat.le_of_lt_succ ((Nat.log2_lt hpos.ne').mpr h)
    have hlow : 2 ^ 23 ≤ n * 2 ^ (23 - n.log2) := by
      calc 2 ^ 23 = 2 ^ n.log2 * 2 ^ (23 - n.log2) := by rw [← pow_add, Nat.add_sub_cancel' hlog]
        _ ≤ n * 2 ^ (23 - n.log2) := Nat.mul_le_mul_right _ (Nat.log2_self_le hpos.ne')
    have hhigh : n * 2 ^ (23 - n.log2) < 2 ^ 24 := by
      calc n * 2 ^ (23 - n.log2) < 2 ^ (n.log2 + 1) * 2 ^ (23 - n.log2) :=
            Nat.mul_lt_mul_of_pos_right Nat.lt_log2_self (by positivity)
        _ = 2 ^ 24 := by rw [← pow_add]; congr 1; omega
    refine ⟨(149 - (23 - n.log2)) * 2 ^ 23 + n * 2 ^ (23 - n.log2), by rw [infMag]; omega, ?_⟩
    rw [magUnits_binade hhigh.le (.inr hlow), Nat.mul_assoc, ← pow_add]
    congr 2
    omega

/-- `toF` is exact up to 24 bits (R13). -/
theorem toF_exact {n : Nat} (h : n < 2 ^ 24) : isFinite (toF n) = true ∧ fValue (toF n) = n := by
  obtain ⟨m, hm, hunits⟩ := exists_magUnits_eq h
  have hm31 : m < 2 ^ 31 := hm.trans (by decide)
  have hround : toF n = withSign false m := by
    rw [toF, fOfRatio, ← hunits, ← Nat.mul_one (magUnits m), roundRatio_magUnits hm one_pos]
  rw [hround, isFinite, fValue_eq, fSign_withSign hm31, fMag_withSign hm31, hunits, decide_eq_true_eq]
  refine ⟨hm, ?_⟩
  push_cast
  exact mul_div_cancel_right₀ _ (by positivity)

/-! ## Rounding to an integer -/

/-- Being the nearest integer to a quotient, by the remainder it leaves. -/
theorem nearestEvenInt_div_iff (n : Nat) {d : Nat} (hd : 0 < d) (k : ℤ) :
    NearestEvenInt (n / d) k ↔ |n - d * k| * 2 ≤ d ∧ (|n - d * k| * 2 = d → Even k) := by
  have hd' : (0 : ℚ) < d := by exact_mod_cast hd
  have hdist : |(n / d : ℚ) - k| = (|n - d * k| : ℤ) / d := by
    rw [div_sub' hd'.ne', abs_div, abs_of_pos hd']
    push_cast
    rfl
  rw [NearestEvenInt, hdist, div_le_div_iff₀ hd' two_pos, div_eq_div_iff hd'.ne' two_ne_zero, one_mul]
  norm_cast

theorem nearestEvenInt_rneDiv (n : Nat) {d : Nat} (hd : 0 < d) : NearestEvenInt (n / d) (rneDiv n d) := by
  have hr := Nat.mod_lt n hd
  have hlow : (n - d * (n / d : ℕ) : ℤ) = (n % d : ℕ) := by
    rw [sub_eq_iff_eq_add']
    exact_mod_cast (Nat.div_add_mod n d).symm
  have hhigh : (n - d * (n / d + 1 : ℕ) : ℤ) = (n % d : ℕ) - d := by
    rw [Nat.cast_add_one, mul_add_one, ← sub_sub, hlow]
  rw [nearestEvenInt_div_iff n hd]
  rcases rneDiv_cases n d with ⟨h, e⟩ | ⟨h, e⟩ | ⟨h, e⟩
  · rw [e, hlow, Nat.abs_cast]
    exact ⟨by omega, fun htie => by omega⟩
  · rw [e, hhigh, abs_of_neg (by omega)]
    exact ⟨by omega, fun htie => by omega⟩
  · rcases Nat.mod_two_eq_zero_or_one (n / d) with hpar | hpar <;> rw [e, hpar]
    · rw [Nat.add_zero, hlow, Nat.abs_cast, Int.even_coe_nat, Nat.even_iff]
      exact ⟨by omega, fun _ => hpar⟩
    · rw [hhigh, abs_of_neg (by omega), Int.even_coe_nat, Nat.even_iff]
      exact ⟨by omega, fun _ => by omega⟩

theorem NearestEvenInt.neg {v : ℚ} {k : ℤ} (h : NearestEvenInt v k) : NearestEvenInt (-v) (-k) := by
  unfold NearestEvenInt
  rw [Int.cast_neg, neg_sub_neg, abs_sub_comm, even_neg]
  exact h

/-- The units of 2^-32 turn in a value, for every pattern. -/
theorem nearestEvenInt_roundTurns (x : F) : NearestEvenInt (fValue x * 2 ^ 32) (roundTurns x) := by
  have hvalue : fValue x * 2 ^ 32 = signed (fSign x) (fMagUnits x / (2 ^ 117 : ℕ)) := by
    rw [fValue_eq, fMagUnits_eq, signed_div, div_mul, show (2 ^ 149 / 2 ^ 32 : ℚ) = (2 ^ 117 : ℕ) by norm_num]
  have hmag := nearestEvenInt_rneDiv (fMagUnits x) (d := 2 ^ 117) (by positivity)
  rw [hvalue, roundTurns]
  cases fSign x
  · exact hmag
  · exact hmag.neg

/-! ## The increment and the advance -/

theorem exec_phaseInc (f : F) (s : State) :
    exec (.phaseInc f) s = .next { s with dp := { s.dp with inc := phaseInc s.cfg.sampleRate f } } := rfl

theorem phaseInc_of_not_isFinite (rate : Nat) {f : F} (h : isNaN f = true ∨ isInf f = true) : phaseInc rate f = 0#32 := by
  rw [phaseInc, if_pos (by simpa using h)]

theorem phaseInc_of_isFinite (rate : Nat) {f : F} (h : isFinite f = true) :
    phaseInc rate f = BitVec.ofInt 32 (roundTurns (fdiv f (toF rate))) := by
  rw [phaseInc, if_neg (by simp [isNaN_of_isFinite h, isInf_of_isFinite h])]

/-- The sample rate has at most 24 bits (R9). -/
theorem paramsOk.sampleRate_lt {p : Params} (h : paramsOk p) : p.sampleRate < 2 ^ 24 := by
  obtain ⟨⟨-, hrate⟩, -⟩ := h
  exact hrate

/-- Settles O38: the magnitude of the quotient is rounded, and its sign given back. -/
theorem phaseIncrementRoundsTheQuotient : Obligations.PhaseIncrementRoundsTheQuotient :=
  fun s f => ⟨phaseInc s.cfg.sampleRate f, exec_phaseInc f s, phaseInc_of_not_isFinite _,
    fun h => ⟨_, nearestEvenInt_roundTurns _, phaseInc_of_isFinite _ h⟩, fun h => (toF_exact h.sampleRate_lt).2⟩

/-- Settles O39: the sum of two words is that of their numbers modulo 2^32. -/
theorem phaseAdvanceAddsModulo : Obligations.PhaseAdvanceAddsModulo := by
  refine fun s n f => ⟨phaseInc s.cfg.sampleRate f, exec_phaseInc f s, ?_⟩
  rw [← BitVec.toNat_add, BitVec.ofNat_toNat, BitVec.setWidth_eq]
  exact exec_phaseAdvance n f s

end Sys2Proof.Machine
end

section
/-! PROOF. The zero patch renders silence (95_test_vectors S1): a zero amplitude stays a zero through the oscillators, the
bypassed filter, the envelope and the quantizer, because everything it is multiplied with is finite. -/

open Sys2Proof

namespace Sys2Proof.Machine

/-! ## Zeros -/

theorem isFinite_of_isZero {x : F} (h : isZero x = true) : isFinite x = true := by
  rw [isFinite, of_decide_eq_true h]
  decide

theorem fValue_of_isZero {x : F} (h : isZero x = true) : fValue x = 0 := by
  rw [fValue_eq, of_decide_eq_true h, magUnits_zero]
  simp [signed]

theorem isZero_withSign_zero (neg : Bool) : isZero (withSign neg 0) = true := by
  cases neg <;> decide

theorem isZero_fmul {a b : F} (ha : isFinite a = true) (hb : isFinite b = true) (h : isZero a = true ∨ isZero b = true) :
    isZero (fmul a b) = true := by
  have hprod : fMagUnits a * fMagUnits b = 0 := by
    rw [Nat.mul_eq_zero, fMagUnits_eq_zero_iff, fMagUnits_eq_zero_iff]
    exact h.imp of_decide_eq_true of_decide_eq_true
  rw [fmul_of_finite ha hb, hprod, roundRatio_zero]
  exact isZero_withSign_zero _

theorem isZero_fsub {a b : F} (ha : isZero a = true) (hb : isZero b = true) : isZero (fsub a b) = true := by
  rcases isZero_cases ha with rfl | rfl <;> rcases isZero_cases hb with rfl | rfl <;> decide

theorem quantWrap_of_isZero {x : F} (h : isZero x = true) : quantWrap x = 0#8 := by
  rcases isZero_cases h with rfl | rfl <;> decide

theorem quantClamp_of_isZero {x : F} (h : isZero x = true) : quantClamp x = 0#8 := by
  rcases isZero_cases h with rfl | rfl <;> decide

/-! ## The envelope value is finite -/

/-- A value up to a bound rounds to a finite value, up to twice the bound: it is as near as +0.0. -/
theorem NearestEven.bounded {v b : ℚ} {x : F} (h : NearestEven v x) (hv : |v| ≤ b) (hb : b < overflowBound) :
    Machine.isFinite x = true ∧ |fValue x| ≤ 2 * b := by
  rw [nearestEven_ratCast, if_neg (not_le.mpr (hv.trans_lt hb))] at h
  obtain ⟨hfin, hnear⟩ := h
  obtain ⟨hle, -⟩ := hnear fZero (by decide)
  rw [fValue_of_isZero (x := fZero) (by decide), sub_zero] at hle
  exact ⟨hfin, by linarith [abs_sub_abs_le_abs_sub (fValue x) v, abs_sub_comm (fValue x) v]⟩

theorem bounds_of_inRange {x : F} (h : inRange fZero x = true) : isFinite x = true ∧ 0 ≤ fValue x ∧ fValue x ≤ 1 := by
  obtain ⟨hlow, hhigh⟩ := Bool.and_eq_true_iff.mp h
  have hnan := isNaN_of_fle_right hlow
  have hinf : isInf x = false := by
    by_contra hinf
    rcases isInf_cases (Bool.not_eq_false _ ▸ hinf) with rfl | rfl
    · exact absurd hhigh (by decide)
    · exact absurd hlow (by decide)
  rw [fle_iff (by decide) hnan, fValue_of_isZero (x := fZero) (by decide)] at hlow
  rw [fle_iff hnan (by decide), fValue_fOne] at hhigh
  exact ⟨by simpa [hnan, hinf] using class_cases x, hlow, hhigh⟩

/-- Between two breakpoints of the envelope (R24) the interpolated value is finite. -/
theorem isFinite_interpolate {lo hi : F} (hlo : inRange fZero lo = true) (hhi : inRange fZero hi = true) {step sps : Nat}
    (hstep : step < sps) (hsps : sps < 2 ^ 24) : isFinite (interpolate lo hi step sps) = true := by
  obtain ⟨hlofin, hlo0, hlo1⟩ := bounds_of_inRange hlo
  obtain ⟨hhifin, hhi0, hhi1⟩ := bounds_of_inRange hhi
  obtain ⟨hstepfin, hstepval⟩ := toF_exact (hstep.trans hsps)
  obtain ⟨hspsfin, hspsval⟩ := toF_exact hsps
  have hpos : (0 : ℚ) < sps := by exact_mod_cast hstep.pos
  have hratio : |fValue (toF step) / fValue (toF sps)| ≤ 1 := by
    rw [hstepval, hspsval, abs_of_nonneg (by positivity), div_le_one hpos]
    exact_mod_cast hstep.le
  have hne : isZero (toF sps) = false := by
    by_contra h0
    have hval := fValue_of_isZero (Bool.not_eq_false _ ▸ h0)
    exact hpos.ne' (hspsval.symm.trans hval)
  obtain ⟨hdfin, hdle⟩ := (sumsAreCorrectlyRounded hi lo hhifin hlofin).2.bounded (b := 1)
    (abs_le.mpr ⟨by linarith, by linarith⟩) (by norm_num [overflowBound])
  obtain ⟨hqfin, hqle⟩ := (fdiv_nearestEven hstepfin hspsfin hne).bounded hratio (by norm_num [overflowBound])
  obtain ⟨hpfin, hple⟩ := (fmul_nearestEven hdfin hqfin).bounded (b := 2 * 1 * (2 * 1))
    ((abs_mul _ _).trans_le (mul_le_mul hdle hqle (abs_nonneg _) (by norm_num))) (by norm_num [overflowBound])
  refine ((sumsAreCorrectlyRounded lo _ hlofin hpfin).1.bounded (b := 9) ?_ (by norm_num [overflowBound])).1
  exact (abs_add_le _ _).trans (by linarith [abs_of_nonneg hlo0])

/-- The envelope value of a running render is finite (R24, R38, R178, R179). -/
theorem State.envValue_finite {s : State} (hpatch : s.patchOk) (hcnt : s.countersOk) (hpos : 1 ≤ s.render.sps) :
    ∃ e : F, isFinite e = true ∧ s.envValue = s.setDp { s.dp with e := e } := by
  obtain ⟨-, henv, -⟩ := hpatch
  obtain ⟨hseg, hsps, hstep, -⟩ := hcnt
  unfold State.envValue
  split
  · exact ⟨_, (bounds_of_inRange (henv 465)).1, rfl⟩
  · rename_i hsat
    have hlt : s.render.seg < 465 := lt_of_le_of_ne hseg fun h => hsat (decide_eq_true h)
    rw [State.envInterp, dif_pos hlt]
    have hlo := henv ⟨s.render.seg, by omega⟩
    have hhi := henv ⟨s.render.seg + 1, by omega⟩
    exact ⟨_, isFinite_interpolate hlo hhi (by omega) (by omega), rfl⟩

/-! ## The oscillators of a zero patch -/

/-- The patch of S1, in a valid configuration: every dial +0.0 and every slot off. -/
structure State.ZeroPatch (s : State) : Prop where
  cfg : paramsOk s.cfg
  dial : ∀ i : Fin 50, s.patch.dial[i] = fZero
  slot : ∀ k : Fin 10, s.patch.slot[k] = 0#6

/-- Band 0 is that of a zero (R108). -/
theorem genWave_of_isZero (cfg : Params) {t : F} (h : isZero t = true) (p : Word) (r : F) :
    genWave cfg t p r = shapeSine p := by
  have hband : bandOf t = .sine := by rcases isZero_cases h with rfl | rfl <;> decide
  rw [genWave, hband, genBand]

theorem paramsOk.isFinite_dialScale {p : Params} (h : paramsOk p) (i : Fin 50) : isFinite p.dialScale[i] = true := by
  obtain ⟨-, -, hscale, -⟩ := h
  exact hscale i

section Off

variable {s : State} (h : ∀ k : Fin 10, s.patch.slot[k] = 0#6)
include h

theorem State.modulate_of_off (ks : List (Fin 10)) : s.modulate ks = s := by
  induction ks with
  | nil => rfl
  | cons k ks ih =>
    have hFm : s.applyFm k = s := by rw [State.applyFm, h k]; rfl
    have hAm : s.applyAm k = s := by rw [State.applyAm, h k]; rfl
    rw [State.modulate, List.foldl_cons, hFm, hAm]
    exact ih

theorem State.combine_of_off (ks : List (Fin 10)) : s.combine ks = s := by
  induction ks with
  | nil => rfl
  | cons k ks ih =>
    have hMul : s.applyMul k = s := by rw [State.applyMul, h k]; rfl
    rw [State.combine, List.foldl_cons, hMul]
    exact ih

end Off

namespace State.ZeroPatch

variable {s : State}

theorem phys (h : s.ZeroPatch) (i : Fin 50) : isZero (s.phys i) = true := by
  rw [State.phys, h.dial i]
  exact isZero_fmul (by decide) (h.cfg.isFinite_dialScale i) (.inl (by decide))

/-- The zero patch and the configuration stay. -/
theorem oscEval (h : s.ZeroPatch) (n : Fin 8) : (s.oscEval n).ZeroPatch := by
  obtain ⟨_, _, _, -, e⟩ := s.oscEval_eq n
  rw [e]
  exact ⟨h.cfg, h.dial, h.slot⟩

/-- The output is the zero amplitude times an entry of the sine table. -/
theorem isZero_output (h : s.ZeroPatch) (n : Fin 8) : isZero (s.oscEval n).dp.o[n] = true := by
  have hslot : ∀ k : Fin 10, ((s.loadBase n).generate n).patch.slot[k] = 0#6 := h.slot
  have e : (s.oscEval n).dp.o[n] = fmul (s.baseA n) (genWave s.cfg (s.baseT n) s.render.phase[n] (s.baseR n)) := by
    rw [State.oscEval, State.modulate_of_off (s := s.loadBase n) h.slot, State.combine_of_off hslot]
    exact Vector.getElem_set_self _
  have ha : isZero (s.baseA n) = true := h.phys _
  have ht : isZero (s.baseT n) = true := h.phys _
  rw [e, genWave_of_isZero s.cfg ht]
  exact isZero_fmul (isFinite_of_isZero ha) (isFinite_sine _) (.inl ha)

theorem bypassed (h : s.ZeroPatch) (j : Fin 3) : s.bypassed j = true := by
  have hc : ∀ c : Fin 5, fle (fabs (s.coeff j c)) f001 = true := fun c => by
    rcases isZero_cases (h.phys ⟨32 + 5 * j.val + c.val, by omega⟩) with e | e <;> rw [State.coeff, e] <;> decide
  simp [State.bypassed, hc]

/-- O1, the last of the eight, gives the zero that the filter takes (R133, R164). -/
theorem oscillators (h : s.ZeroPatch) : s.oscillators.ZeroPatch ∧ isZero s.oscillators.dp.o[0] = true := by
  have h7 := h.oscEval 7 |>.oscEval 6 |>.oscEval 3 |>.oscEval 2 |>.oscEval 5 |>.oscEval 1 |>.oscEval 4
  exact ⟨h7.oscEval 0, h7.isZero_output 0⟩

end State.ZeroPatch

/-! ## The post stages -/

/-- With every section bypassed the cascade passes its input (R164). -/
theorem State.bqCascade_of_bypassed {s : State} (h : ∀ j, s.bypassed j = true) (x : F) :
    s.bqCascade x = s.setDp { s.dp with v := x } := by
  have hsec : ∀ j, (s.setDp { s.dp with v := x }).bqSection j = s.setDp { s.dp with v := x } := fun j =>
    if_pos ((State.bypassed_congr rfl rfl j).trans (h j))
  rw [State.bqCascade, State.returnV_eq, hsec, hsec, hsec]

theorem State.crush_of_off {s : State} (h : s.render.cl = 0) : s.crush = s := by
  rw [State.crush, State.crushOn, h]
  rfl

/-- The byte of a zero is 0 in either quantizer mode (R186, R187). -/
theorem State.quantize_of_isZero {s : State} (h : isZero s.dp.s = true) : s.quantize.dp.q = 0#8 := by
  show (if s.qmode then quantClamp s.dp.s else quantWrap s.dp.s) = 0#8
  rw [quantClamp_of_isZero h, quantWrap_of_isZero h, ite_self]

/-- A zero stays a zero through the bypassed filter, the crush switched off, the envelope and a zero offset. -/
theorem State.postStages_of_isZero {s : State} (h : s.ZeroPatch) (ho : isZero s.dp.o[0] = true) (hcl : s.render.cl = 0)
    (hdcv : isZero s.render.dcv = true) (hpatch : s.patchOk) (hcnt : s.countersOk) (hpos : 1 ≤ s.render.sps) :
    s.postStages.dp.q = 0#8 := by
  have hv : (s.bqCascade s.dp.o[0]).crush = s.setDp { s.dp with v := s.dp.o[0] } := by
    rw [State.bqCascade_of_bypassed h.bypassed]
    exact State.crush_of_off hcl
  obtain ⟨e, hfin, he⟩ := State.envValue_finite (s := s.setDp { s.dp with v := s.dp.o[0] }) hpatch hcnt hpos
  obtain ⟨_, _, hadv, -⟩ := State.envAdvance_eq ((s.setDp { s.dp with v := s.dp.o[0] }).envValue)
  unfold State.postStages
  dsimp only
  rw [hv, hadv, he]
  refine State.quantize_of_isZero (isZero_fsub ?_ hdcv)
  exact isZero_fmul hfin (isFinite_of_isZero ho) (.inr ho)

/-! ## The sample step -/

theorem State.storeSample_buf (s : State) : s.storeSample.buf = Memory.write s.buf s.progress.toNat s.dp.q := by
  rw [State.storeSample]
  split <;> rfl

/-- The byte a sample step stores is that of its post stages (R228). -/
theorem State.bufByte_sampleStep {s : State} (hb : s.busy = true) (hbuf : Memory.wf s.buf) :
    s.sampleStep.bufByte s.progress.toNat = s.oscillators.postStages.dp.q := by
  obtain ⟨ph, d, hosc⟩ := s.oscillators_eq
  obtain ⟨_, _, _, _, _, d', hpost, -⟩ := s.oscillators.postStages_eq
  rw [State.sampleStep, if_pos hb, State.bufByte, State.setDp_buf, State.storeSample_buf, hpost]
  simp only [State.setDp_dp, State.setDp_buf, State.setDp_progress, State.setRender_buf, State.setRender_progress]
  rw [hosc]
  exact Memory.read_write_same hbuf _ _

/-- Settles O60: the oscillators of a zero patch give a zero, and the stages after them keep it one. -/
theorem zeroPatchRendersSilence : Obligations.ZeroPatchRendersSilence := by
  intro s hinv hb hdial hslot hcl hdcv
  obtain ⟨hcfg, hpatch, hcnt, ⟨-, -, -, hrun⟩, hbuf, -⟩ := hinv
  obtain ⟨-, hpos, -⟩ := hrun hb
  refine ⟨s.sampleStep, rfl, ?_⟩
  rw [State.bufByte_sampleStep hb hbuf]
  obtain ⟨hzero, hout⟩ := State.ZeroPatch.oscillators ⟨hcfg, hdial, hslot⟩
  obtain ⟨ph, d, hosc⟩ := s.oscillators_eq
  rw [hosc] at hzero hout ⊢
  exact State.postStages_of_isZero hzero hout hcl hdcv hpatch hcnt hpos

end Sys2Proof.Machine
end

section
/-! PROOF. The biquad filter: the bypass predicate, the two operations of a section, and the cascade as the sequence of the selected
ones (R160 to R164). -/

open Sys2Proof

namespace Sys2Proof.Machine

/-! ## One section (R160 to R163) -/

theorem State.bypassed_iff (s : State) (j : Fin 3) :
    s.bypassed j = true ↔ ∀ k : Fin 5, fle (fabs (s.coeff j k)) f001 = true := by
  simp [State.bypassed, Fin.forall_fin_succ, and_assoc]

theorem fle_fabs_f001_of_isZero {x : F} (h : isZero x = true) : fle (fabs x) f001 = true := by
  rcases isZero_cases h with rfl | rfl <;> decide

/-- A zero dial gives a zero coefficient, because its scale is finite (R9, R160). -/
theorem State.isZero_coeff {s : State} (hcfg : paramsOk s.cfg) {j : Fin 3} {k : Fin 5}
    (h : isZero (s.patch.dial[32 + 5 * j.val + k.val]'(by omega)) = true) : isZero (s.coeff j k) = true :=
  isZero_fmul (isFinite_of_isZero h) (hcfg.isFinite_dialScale ⟨32 + 5 * j.val + k.val, by omega⟩) (.inl h)

theorem exec_bqBypass (j : Fin 3) (x : F) (s : State) :
    exec (.bqBypass j x) s = .next (s.setDp { s.dp with v := x }) := rfl

theorem exec_bqActive (j : Fin 3) (x : F) (s : State) :
    exec (.bqActive j x) s = .next ((s.setRender { s.render with
      bq := s.render.bq.set j ⟨x, s.render.bq[j].x1, s.bqOutput j x, s.render.bq[j].y1⟩ }).setDp
        { s.dp with v := s.bqOutput j x }) := rfl

/-- Settles O40: the five comparisons are those of the predicate, and a zero coefficient passes each of them. -/
theorem biquadSectionsFollowTheirRules : Obligations.BiquadSectionsFollowTheirRules := by
  refine fun s j x => ⟨s.bypassed_iff j, exec_bqBypass j x s, exec_bqActive j x s, fun hcfg hdial =>
    (s.bypassed_iff j).mpr fun k => fle_fabs_f001_of_isZero (State.isZero_coeff hcfg ?_)⟩
  rw [hdial k]
  decide

/-! ## The cascade (R164) -/

theorem exec_bqCascade (x : F) (s : State) : exec (.bqCascade x) s = .next (s.bqCascade x) := rfl

@[simp] theorem State.bypassed_setDp (s : State) (d : Datapath) (j : Fin 3) : (s.setDp d).bypassed j = s.bypassed j :=
  State.bypassed_congr rfl rfl j

@[simp] theorem State.bypassed_bqSection (s : State) (i j : Fin 3) : (s.bqSection i).bypassed j = s.bypassed j := by
  obtain ⟨h, v, -, e⟩ := s.bqSection_eq i
  rw [e]
  exact State.bypassed_congr rfl rfl j

/-- The operation that the bypass bit of a section selects (R90). -/
theorem exec_selectedSection {s : State} {j : Fin 3} {b : Bool} (h : s.bypassed j = b) (v : F) :
    exec (if b then .bqBypass j v else .bqActive j v) s = .next ((s.setDp { s.dp with v := v }).bqSection j) := by
  rw [State.bqSection, State.bypassed_setDp, h]
  split <;> rfl

/-- A section leaves the history of every bypassed section as it is, its own included. -/
theorem State.bq_bqSection_of_bypassed {s : State} {j : Fin 3} (hj : s.bypassed j = true) (i : Fin 3) :
    (s.bqSection i).render.bq[j] = s.render.bq[j] := by
  obtain ⟨h, v, hown, e⟩ := s.bqSection_eq i
  rw [e]
  by_cases hij : i = j
  · subst hij
    simp [(hown hj).1]
  · have hne : i.val ≠ j.val := fun he => hij (Fin.ext he)
    simp [hne]

theorem State.bq_bqCascade_of_bypassed {s : State} {j : Fin 3} (hj : s.bypassed j = true) (x : F) :
    (s.bqCascade x).render.bq[j] = s.render.bq[j] := by
  calc (s.bqCascade x).render.bq[j]
    _ = (((s.returnV x).bqSection 0).bqSection 1).render.bq[j] := State.bq_bqSection_of_bypassed (by simpa using hj) 2
    _ = ((s.returnV x).bqSection 0).render.bq[j] := State.bq_bqSection_of_bypassed (by simpa using hj) 1
    _ = s.render.bq[j] := State.bq_bqSection_of_bypassed (by simpa using hj) 0

/-- The three selected operations in order. No section changes a bypass bit, so those at the start select all three. -/
theorem exec_bqCascade_eq_sections (x : F) (s : State) :
    let op := fun (j : Fin 3) (v : F) => if s.bypassed j then Instr.bqBypass j v else .bqActive j v
    exec (.bqCascade x) s = andThen (exec (op 0 x) s) fun s1 => andThen (exec (op 1 s1.dp.v) s1)
      fun s2 => exec (op 2 s2.dp.v) s2 := by
  intro op
  symm
  refine andThen_of_next (exec_selectedSection rfl x) (andThen_of_next (exec_selectedSection (by simp) _) ?_)
  rw [exec_selectedSection (by simp), State.setDp_self, State.setDp_self, exec_bqCascade, State.bqCascade, State.returnV_eq]

/-- Settles O41: the sequence, the frame with the kept histories, and the cascade of three bypassed sections. -/
theorem cascadeRunsItsSectionsInOrder : Obligations.CascadeRunsItsSectionsInOrder := by
  intro s x
  refine ⟨exec_bqCascade_eq_sections x s, ⟨s.bqCascade x, exec_bqCascade x s, ?_, fun j hj =>
    State.bq_bqCascade_of_bypassed hj x⟩, fun h => ?_⟩
  · obtain ⟨bq, v, e⟩ := s.bqCascade_eq x
    rw [e]
    rfl
  · rw [exec_bqCascade, State.bqCascade_of_bypassed h, State.setDp]

end Sys2Proof.Machine
end

section
/-! PROOF. The crush and the envelope: the aligned groups of held samples, the cursor of the envelope after any number of steps,
and the value at a breakpoint (R178 to R183). -/

open Sys2Proof

namespace Sys2Proof.Machine

/-! ## The crush (R182, R183) -/

theorem exec_crushOff (v : F) (s : State) : exec (.crushOff v) s = .next { s with dp := { s.dp with v := v } } := rfl

/-- The value a crush that is on gives for `v` (R183). -/
def State.held (s : State) (v : F) : F := if s.render.cnt = 0 then v else s.render.val

theorem State.crushHold_eq {s : State} (h : 0 < s.render.cl) (v : F) : s.crushHold v =
    { s with
      render := { s.render with val := s.held v, cnt := (s.render.cnt + 1) % s.render.cl }, dp := { s.dp with v := s.held v } } := by
  rw [State.crushHold, if_neg h.ne']
  rfl

/-- The first sample of the aligned group of `cl` samples that sample `k` is in. -/
def groupFirst (cl : Nat) (xs : List F) (k : Nat) : F := xs.getD (k - k % cl) 0#32

/-- The crush has taken the samples `xs`: the counter is the place of the next one in its group, and the value held is the first
of a group that has begun. -/
def State.Crushed (s : State) (xs : List F) : Prop :=
  s.render.cnt = xs.length % s.render.cl ∧ (s.render.cnt ≠ 0 → s.render.val = groupFirst s.render.cl xs xs.length)

section Crush

variable {s : State} (h : 0 < s.render.cl) {ys : List F} (hs : s.Crushed ys)
include hs

/-- What is held for the next sample is the first of its group, whatever samples follow. -/
theorem State.Crushed.held_eq (x : F) (xs : List F) : s.held x = groupFirst s.render.cl (ys ++ x :: xs) ys.length := by
  obtain ⟨hcnt, hval⟩ := hs
  rw [State.held, groupFirst]
  split
  · rename_i h0
    rw [← hcnt, h0, Nat.sub_zero, List.getD_append_right _ _ _ _ le_rfl, Nat.sub_self, List.getD_cons_zero]
  · rename_i h0
    have hle := Nat.mod_le ys.length s.render.cl
    rw [hval h0, groupFirst, List.getD_append _ _ _ _ (by omega)]

include h

theorem State.Crushed.crushHold (x : F) : (s.crushHold x).Crushed (ys ++ [x]) := by
  have hheld := hs.held_eq x []
  obtain ⟨hcnt, -⟩ := hs
  rw [State.crushHold_eq h]
  refine ⟨?_, fun hne => hheld.trans ?_⟩
  · show (s.render.cnt + 1) % s.render.cl = (ys ++ [x]).length % s.render.cl
    rw [List.length_append, hcnt, Nat.mod_add_mod, List.length_singleton]
  · have hmod : (ys.length + 1) % s.render.cl = ys.length % s.render.cl + 1 := by
      have hne' : (ys.length % s.render.cl + 1) % s.render.cl ≠ 0 := hcnt ▸ hne
      have hlt : ys.length % s.render.cl + 1 < s.render.cl :=
        lt_of_le_of_ne (Nat.mod_lt _ h) fun e => hne' (by rw [e, Nat.mod_self])
      rw [← Nat.mod_add_mod, Nat.mod_eq_of_lt hlt]
    show groupFirst s.render.cl (ys ++ [x]) ys.length = groupFirst s.render.cl (ys ++ [x]) (ys ++ [x]).length
    rw [groupFirst, groupFirst, List.length_append, List.length_singleton, hmod, Nat.add_sub_add_right]

end Crush

/-- Each further sample leaves as the first of its group among all samples taken. -/
theorem crushes_eq (xs : List F) {ys : List F} {s : State} (h : 0 < s.render.cl) (hs : s.Crushed ys) :
    crushes xs s = (List.range xs.length).map fun k => groupFirst s.render.cl (ys ++ xs) (ys.length + k) := by
  induction xs generalizing ys s with
  | nil => rfl
  | cons x xs ih =>
    have hcl : (s.crushHold x).render.cl = s.render.cl := by rw [State.crushHold_eq h]
    have hv : (s.crushHold x).dp.v = s.held x := by rw [State.crushHold_eq h]
    rw [crushes, ih (hcl ▸ h) (hs.crushHold h x), hcl, hv, hs.held_eq x xs, List.length_cons, List.range_succ_eq_map]
    simp [Function.comp_def, Nat.add_right_comm, Nat.add_assoc]

/-- Settles O44: with no sample taken, the counter at 0, the groups are those of the list itself. -/
theorem crushHoldsAlignedGroups : Obligations.CrushHoldsAlignedGroups := by
  refine ⟨fun s v => exec_crushOff v s, fun s v h => ⟨s.held v, congrArg Host.Outcome.next (s.crushHold_eq h v), rfl⟩,
    fun s xs h h0 => ?_⟩
  have hs : s.Crushed [] := ⟨by rw [h0, List.length_nil, Nat.zero_mod], fun hne => absurd h0 hne⟩
  simpa [groupFirst] using crushes_eq xs h hs

/-! ## The cursor of the envelope (R180) -/

/-- The cursor after `n` steps: one segment for every SPS steps, and none past the last. -/
def State.envCursor (s : State) (n : Nat) : State :=
  { s with render := { s.render with
    step := (s.render.step + n) % s.render.sps
    seg := min 465 (s.render.seg + (s.render.step + n) / s.render.sps) } }

theorem exec_envAdvance (s : State) : exec .envAdvance s = .next s.envAdvance := rfl

section Cursor

variable {s : State} (hseg : s.render.seg ≤ 465) (hstep : s.render.step < s.render.sps)
include hseg hstep

theorem State.envCursor_zero : s.envCursor 0 = s := by
  rw [State.envCursor, Nat.add_zero, Nat.mod_eq_of_lt hstep, Nat.div_eq_of_lt hstep, Nat.add_zero, Nat.min_eq_right hseg]

theorem State.envAdvance_eq_envCursor : s.envAdvance = s.envCursor 1 := by
  rw [State.envAdvance, State.envCursor]
  split
  · rename_i hlast
    have hnext : (if s.render.seg < 465 then s.render.seg + 1 else s.render.seg) = min 465 (s.render.seg + 1) := by
      split <;> omega
    rw [hlast, Nat.mod_self, Nat.div_self (by omega), ← hnext]
    rfl
  · rw [Nat.mod_eq_of_lt (by omega), Nat.div_eq_of_lt (by omega), Nat.min_eq_right (by omega : s.render.seg + 0 ≤ 465)]
    rfl

end Cursor

/-- Steps and segments add up: what is left of the first steps, and the segments they gave, are counted on. -/
theorem State.envCursor_envCursor {s : State} (hpos : 0 < s.render.sps) (m n : Nat) :
    (s.envCursor m).envCursor n = s.envCursor (m + n) := by
  have hmod : ((s.render.step + m) % s.render.sps + n) % s.render.sps = (s.render.step + (m + n)) % s.render.sps := by
    rw [Nat.mod_add_mod, Nat.add_assoc]
  have hdiv : (s.render.step + (m + n)) / s.render.sps =
      (s.render.step + m) / s.render.sps + ((s.render.step + m) % s.render.sps + n) / s.render.sps := by
    rw [Nat.add_comm (_ / _), ← Nat.add_mul_div_left _ _ hpos, Nat.add_right_comm, Nat.mod_add_div, Nat.add_assoc]
  have hmin : ∀ a b : Nat, min 465 (min 465 a + b) = min 465 (a + b) := by omega
  simp only [State.envCursor, hmod, hdiv, hmin, Nat.add_assoc]

theorem envAdvances_eq_envCursor (n : Nat) {s : State} (hseg : s.render.seg ≤ 465) (hstep : s.render.step < s.render.sps) :
    envAdvances n s = s.envCursor n := by
  induction n generalizing s with
  | zero => exact (s.envCursor_zero hseg hstep).symm
  | succ n ih =>
    rw [envAdvances, State.envAdvance_eq_envCursor hseg hstep,
      ih (s := s.envCursor 1) (Nat.min_le_left _ _) (Nat.mod_lt _ hstep.pos), State.envCursor_envCursor hstep.pos, Nat.add_comm]

/-- Settles O43: one advance is a step of the cursor, and the steps add up. -/
theorem envelopeAdvancesEverySegment : Obligations.EnvelopeAdvancesEverySegment :=
  fun s n hseg hstep => ⟨exec_envAdvance s, envAdvances_eq_envCursor n hseg hstep⟩

/-! ## Sums with a zero -/

theorem isNearestMag_magUnits (m : Nat) : IsNearestMag (magUnits m) m := by
  have hnext : (magUnits m : ℚ) < magUnits (m + 1) := by exact_mod_cast magUnits_strictMono (Nat.lt_add_one m)
  exact isNearestMag_lower le_rfl hnext.le (.inl (by linarith))

/-- A finite value is below the overflow bound: the magnitude nearest to it is its own, not that of infinity. -/
theorem abs_fValue_lt_overflowBound {x : F} (h : isFinite x = true) : |fValue x| < overflowBound := by
  rw [fValue_eq, abs_div, abs_signed, abs_of_nonneg (by positivity), abs_of_pos (by positivity), ← not_le,
    ← (isNearestMag_magUnits (fMag x)).infMag_le_iff, not_le]
  exact of_decide_eq_true h

/-- The value of a pattern rounds to that value. -/
theorem NearestEven.fValue_eq {x y : F} (h : NearestEven ((fValue y : ℚ) : ℝ) x) (hy : Machine.isFinite y = true) :
    fValue x = fValue y := by
  rw [nearestEven_ratCast, if_neg (not_le.mpr (abs_fValue_lt_overflowBound hy))] at h
  obtain ⟨-, hnear⟩ := h
  obtain ⟨hle, -⟩ := hnear y hy
  rw [sub_self, abs_zero, abs_nonpos_iff, sub_eq_zero] at hle
  exact hle.symm

section Zero

variable {a z : F} (ha : isFinite a = true) (hz : isZero z = true)
include ha hz

theorem fValue_fadd_of_isZero : fValue (fadd a z) = fValue a := by
  have h := (sumsAreCorrectlyRounded a z ha (isFinite_of_isZero hz)).1
  rw [fValue_of_isZero hz, add_zero] at h
  exact h.fValue_eq ha

theorem fValue_fsub_of_isZero : fValue (fsub z a) = -fValue a := by
  have h := (sumsAreCorrectlyRounded z a (isFinite_of_isZero hz) ha).2
  rw [fValue_of_isZero hz, zero_sub, ← fValue_fneg] at h
  rw [h.fValue_eq ((isFinite_fneg a).trans ha), fValue_fneg]

end Zero

/-! ## The value of the envelope (R178, R179) -/

theorem exec_envHold (s : State) : exec .envHold s = .next { s with dp := { s.dp with e := s.patch.env[465] } } := rfl

theorem exec_envInterp {s : State} (h : s.render.seg < 465) : exec .envInterp s = .next { s with dp := { s.dp with
    e := interpolate s.patch.env[s.render.seg] s.patch.env[s.render.seg + 1] s.render.step s.render.sps } } := by
  show Host.Outcome.next s.envInterp = _
  rw [State.envInterp, dif_pos h]
  rfl

theorem isZero_fdiv {a b : F} (ha : isZero a = true) (hb : isFinite b = true) (h0 : isZero b = false) :
    isZero (fdiv a b) = true := by
  rw [fdiv_of_finite (isFinite_of_isZero ha) hb h0, (fMagUnits_eq_zero_iff a).mpr (of_decide_eq_true ha), Nat.zero_mul,
    roundRatio_zero]
  exact isZero_withSign_zero _

theorem isZero_toF_of_pos {n : Nat} (hpos : 1 ≤ n) (hlt : n < 2 ^ 24) : isZero (toF n) = false := by
  by_contra h0
  have hval := (toF_exact hlt).2.symm.trans (fValue_of_isZero (Bool.not_eq_false _ ▸ h0))
  exact absurd (Nat.cast_eq_zero.mp hval) (by omega)

/-- The difference of two breakpoints (R24) is finite. -/
theorem isFinite_fsub_of_inRange {hi lo : F} (hhi : inRange fZero hi = true) (hlo : inRange fZero lo = true) :
    isFinite (fsub hi lo) = true := by
  obtain ⟨hhifin, hhi0, hhi1⟩ := bounds_of_inRange hhi
  obtain ⟨hlofin, hlo0, hlo1⟩ := bounds_of_inRange hlo
  exact ((sumsAreCorrectlyRounded hi lo hhifin hlofin).2.bounded (b := 1) (abs_le.mpr ⟨by linarith, by linarith⟩)
    (by norm_num [overflowBound])).1

/-- At step 0 the fraction is a zero, so the interpolated value is that of the breakpoint. -/
theorem feq_interpolate_zero {lo hi : F} (hlo : inRange fZero lo = true) (hhi : inRange fZero hi = true) {sps : Nat}
    (hpos : 1 ≤ sps) (hlt : sps < 2 ^ 24) : feq (interpolate lo hi 0 sps) lo = true := by
  have hfrac : isZero (fdiv (toF 0) (toF sps)) = true := isZero_fdiv (by decide) (toF_exact hlt).1 (isZero_toF_of_pos hpos hlt)
  have hprod := isZero_fmul (isFinite_fsub_of_inRange hhi hlo) (isFinite_of_isZero hfrac) (.inr hfrac)
  have hlofin := (bounds_of_inRange hlo).1
  have hfin : isFinite (interpolate lo hi 0 sps) = true := isFinite_interpolate hlo hhi hpos hlt
  rw [feq_iff (isNaN_of_isFinite hfin) (isNaN_of_isFinite hlofin)]
  exact fValue_fadd_of_isZero hlofin hprod

/-- Settles O42: the interpolated value is the formula of R178, and at step 0 its second term is a zero. -/
theorem envelopeInterpolatesAndHolds : Obligations.EnvelopeInterpolatesAndHolds := by
  refine fun s => ⟨exec_envHold s, fun hseg => ⟨_, exec_envInterp hseg, rfl, fun hpatch hstep hpos hlt => ?_⟩⟩
  obtain ⟨-, henv, -⟩ := hpatch
  rw [hstep]
  exact feq_interpolate_zero (henv ⟨s.render.seg, by omega⟩) (henv ⟨s.render.seg + 1, by omega⟩) hpos hlt

end Sys2Proof.Machine
end

section
/-! PROOF. The scaling and the two quantizers (R185 to R187). -/

open Sys2Proof

namespace Sys2Proof.Machine

/-! ## Scaling (R185) -/

theorem exec_postScale (e v : F) (s : State) :
    exec (.postScale e v) s = .next { s with dp := { s.dp with s := postScale e v s.render.dcv } } := rfl

/-- Settles O45: a zero envelope value makes the product a zero, and a zero less the DC value is exact. -/
theorem postScaleSubtractsTheOffset : Obligations.PostScaleSubtractsTheOffset :=
  fun s e v => ⟨_, exec_postScale e v s, rfl, fun he hv hdcv =>
    fValue_fsub_of_isZero hdcv (isZero_fmul (isFinite_of_isZero he) hv (.inl he))⟩

/-! ## Truncation toward zero (R13) -/

theorem truncQ_div (u : ℤ) {d : Nat} (hd : 0 < d) : truncQ ((u : ℚ) / d) = u.tdiv d := by
  have hneg : (u : ℚ) / d < 0 ↔ u < 0 := by
    rw [div_lt_iff₀ (by exact_mod_cast hd), zero_mul, Int.cast_lt_zero]
  rw [truncQ, if_congr hneg rfl rfl]
  split
  · rw [← neg_div, ← Int.cast_neg, Rat.floor_intCast_div_natCast, ← Int.tdiv_eq_ediv_of_nonneg (by omega), Int.neg_tdiv,
      neg_neg]
  · rw [Rat.floor_intCast_div_natCast, Int.tdiv_eq_ediv_of_nonneg (by omega)]

theorem truncF_eq (x : F) : truncF x = truncQ (fValue x) := by
  have h := truncQ_div (fUnits x) (d := 2 ^ 149) (by positivity)
  push_cast at h
  exact h.symm

/-! ## The wrapping quantizer (R186) -/

theorem exec_quantWrap (x : F) (s : State) :
    exec (.quantWrap x) s = .next { s with dp := { s.dp with q := quantWrap x } } := rfl

theorem quantWrap_of_not_isFinite {x : F} (h : isFinite x = false) : quantWrap x = 0#8 := by
  rcases class_cases x with ⟨hnan, -⟩ | ⟨-, hinf, -⟩ | ⟨-, -, hfin⟩
  · rw [quantWrap, hnan, Bool.true_or, if_pos rfl]
  · rw [quantWrap, hinf, Bool.or_true, if_pos rfl]
  · exact absurd (hfin.symm.trans h) (by decide)

theorem quantWrap_of_isFinite {x : F} (h : isFinite x = true) : quantWrap x =
    if -(2 ^ 31) ≤ truncQ (fValue x) ∧ truncQ (fValue x) ≤ 2 ^ 31 - 1 then BitVec.ofInt 8 (truncQ (fValue x)) else 0#8 := by
  rw [quantWrap, if_neg (by simp [isNaN_of_isFinite h, isInf_of_isFinite h]), truncF_eq, ← ite_not]
  simp only [not_or, not_lt]

/-- Settles O46: the range test of R186 is on the truncated value, which the model takes in units of 2^-149. -/
theorem wrappingQuantizerTruncates : Obligations.WrappingQuantizerTruncates :=
  fun s x => ⟨quantWrap x, exec_quantWrap x s, quantWrap_of_not_isFinite, quantWrap_of_isFinite⟩

/-! ## The clamping quantizer (R187) -/

theorem exec_quantClamp (x : F) (s : State) :
    exec (.quantClamp x) s = .next { s with dp := { s.dp with q := quantClamp x } } := rfl

theorem quantClamp_of_isNaN {x : F} (h : isNaN x = true) : quantClamp x = 0#8 := by
  rw [quantClamp, if_pos h]

theorem quantClamp_of_isInf {x : F} (h : isInf x = true) : quantClamp x = if fSign x then 0x80#8 else 0x7F#8 := by
  rcases isInf_cases h with rfl | rfl <;> rfl

theorem clampInt_mem (x : ℤ) {lo hi : ℤ} (h : lo ≤ hi) : lo ≤ clampInt x lo hi ∧ clampInt x lo hi ≤ hi := by
  unfold clampInt
  omega

/-- A value clamped to -128 .. 127 is that of its byte. -/
theorem quantClamp_of_isFinite {x : F} (h : isFinite x = true) :
    (quantClamp x).toInt = min (max (truncQ (fValue x)) (-128)) 127 := by
  have hrange := clampInt_mem (truncF x) (lo := -128) (hi := 127) (by decide)
  rw [quantClamp, if_neg (by simp [isNaN_of_isFinite h]), if_neg (by simp [isInf_of_isFinite h]), BitVec.toInt_ofInt,
    Int.bmod_eq_of_le (by omega) (by omega), clampInt, truncF_eq]

/-- Settles O47, class by class. -/
theorem clampingQuantizerSaturates : Obligations.ClampingQuantizerSaturates :=
  fun s x => ⟨quantClamp x, exec_quantClamp x s, quantClamp_of_isNaN, quantClamp_of_isInf, quantClamp_of_isFinite⟩

end Sys2Proof.Machine
end

section
/-! PROOF. The host's writes: the descriptor of each register write, the busy check, and what each write stores (R212 to R225). -/

open Sys2Proof

namespace Sys2Proof.Machine

/-! ## Descriptors of register writes (R61, R80) -/

/-- The descriptor of a 4-byte write is its address behind the fixed bits WE and SIZE. -/
theorem mkDesc_write {a : Nat} (h : a < 2 ^ 22) : mkDesc true 0b10#2 (BitVec.ofNat 22 a) = BitVec.ofNat 25 (0x1800000 + a) := by
  apply BitVec.eq_of_toNat_eq
  have hfixed : (BitVec.ofBool true ++ 0b10#2).toNat = 6 := rfl
  rw [mkDesc, BitVec.toNat_cast, BitVec.toNat_append, hfixed, BitVec.toNat_ofNat, BitVec.toNat_ofNat, Nat.mod_eq_of_lt h,
    ← Nat.shiftLeft_add_eq_or_of_lt h, Nat.mod_eq_of_lt (by omega)]
  rfl

/-- The written-out descriptor of a register write selects it. -/
theorem decodeBus_registerWrite (r : RegName) {T : Nat} (hT : T = 0x1800000 + regAddr r) (d : Word) :
    decodeBus (BitVec.ofNat 25 T) d = writeOf r d := by
  obtain ⟨hlt, -⟩ := regAddr_bounds r
  exact decodeBus_of_writeDesc (hT ▸ mkDesc_write (by omega)) d

/-! ## The busy check (R212) -/

section BusyCheck

variable {s : State} {f : State → State} {op : Instr}

/-- A busy-checked operation while a render runs sets ERR_BUSY and is otherwise ignored. -/
theorem exec_busyChecked_of_busy (hop : exec op s = .next (s.busyChecked f)) (hb : s.busy = true) :
    exec op s = .next s.setErrBusy := by
  rw [hop, State.busyChecked_of_busy hb]

/-- While the block is idle it has its effect. -/
theorem exec_busyChecked_of_idle (hop : exec op s = .next (s.busyChecked f)) (hb : s.busy = false) :
    exec op s = .next (f s) := by
  rw [hop, State.busyChecked_of_idle hb]

end BusyCheck

theorem exec_wrConfig (v : Word) (s : State) :
    exec (.wrConfig v) s = .next (s.busyChecked fun s => s.setQmode (v.getLsbD 0)) := rfl

theorem exec_wrDuration (v : Word) (s : State) :
    exec (.wrDuration v) s = .next (s.busyChecked fun s => s.setDuration v) := rfl

theorem exec_wrSectionLength (v : Word) (s : State) :
    exec (.wrSectionLength v) s = .next (s.busyChecked fun s => s.setSectionLength (wrapSection v)) := rfl

theorem exec_wrDial (i : Fin 50) (v : Word) (s : State) : exec (.wrDial i v) s =
    .next (s.busyChecked fun s => s.setDial i (clampWrite (dialLow s.cfg.dialPolarity[i]) v)) := rfl

theorem exec_wrSlot (k : Fin 10) (v : Word) (s : State) :
    exec (.wrSlot k v) s = .next (s.busyChecked fun s => s.setSlot k (v.extractLsb' 0 6)) := rfl

theorem exec_wrEnv (k : Fin 466) (v : Word) (s : State) :
    exec (.wrEnv k v) s = .next (s.busyChecked fun s => s.setEnv k (clampWrite fZero v)) := rfl

/-- A write of CTRL with START clear does nothing (R213). -/
theorem exec_wrCtrl_of_clear {v : Word} (h : v.getLsbD 0 = false) (s : State) : exec (.wrCtrl v) s = .next s :=
  congrArg Host.Outcome.next (if_neg (by rw [h]; decide))

/-- A write of CTRL with START set is a busy-checked render start (R213). -/
theorem exec_wrCtrl_of_set {v : Word} (h : v.getLsbD 0 = true) (s : State) :
    exec (.wrCtrl v) s = .next (s.busyChecked State.renderStart) :=
  congrArg Host.Outcome.next (if_pos h)

/-- Settles O9, by bit 0 and the busy check. -/
theorem controlWriteStartsWhenIdle : Obligations.ControlWriteStartsWhenIdle := by
  refine fun s v => ⟨decodeBus_registerWrite .ctrl rfl v, fun h => exec_wrCtrl_of_clear h s,
    fun h hb => exec_busyChecked_of_busy (exec_wrCtrl_of_set h s) hb, fun h hb => ?_⟩
  have hstart := exec_busyChecked_of_idle (exec_wrCtrl_of_set h s) hb
  exact ⟨hstart.trans (exec_renderStart s).symm, _, hstart⟩

/-! ## Control registers (R214 to R216, R221, R222) -/

theorem and_not_eq_ite (a b : Bool) : (a && !b) = if b then false else a := by
  cases b <;> simp

/-- Settles O10: clearing by a mask bit is keeping the flag where the bit is 0. -/
theorem statusWriteClearsOnes : Obligations.StatusWriteClearsOnes := by
  refine fun s v => ⟨decodeBus_registerWrite .status rfl v, ?_⟩
  rw [exec_wrStatus, State.clearStatus, and_not_eq_ite, and_not_eq_ite, and_not_eq_ite]

/-- Settles O11: two busy-checked writes, one that is not, and three without effect. -/
theorem controlRegisterWrites : Obligations.ControlRegisterWrites :=
  fun s v => ⟨⟨decodeBus_registerWrite .config rfl v, exec_wrConfig v s⟩,
    ⟨decodeBus_registerWrite .duration rfl v, exec_wrDuration v s⟩,
    ⟨decodeBus_registerWrite .irqEn rfl v, exec_wrIrqEn v s⟩, ⟨decodeBus_registerWrite .id rfl v, rfl⟩,
    ⟨decodeBus_registerWrite .length rfl v, rfl⟩, decodeBus_registerWrite .progress rfl v, rfl⟩

/-! ## Patch writes (R217 to R220) -/

/-- Settles O12: the wrapped value is the residue of the written one in 1 .. 33. -/
theorem sectionLengthWraps : Obligations.SectionLengthWraps := by
  refine fun s v => ⟨decodeBus_registerWrite .sectionLength rfl v, exec_busyChecked_of_busy (exec_wrSectionLength v s),
    fun hb => ⟨wrapSection v, exec_busyChecked_of_idle (exec_wrSectionLength v s) hb, ?_⟩⟩
  have hwrap := wrapSection_toNat v
  omega

theorem isNaN_of_flt {a b : F} (h : flt a b = true) : isNaN a = false ∧ isNaN b = false := by
  simp only [flt, Bool.and_eq_true, Bool.not_eq_true'] at h
  exact h.1

theorem fle_of_flt {a b : F} (h : flt a b = true) : fle a b = true := by
  simp only [flt, fle, Bool.and_eq_true, decide_eq_true_eq] at *
  exact ⟨h.1, h.2.le⟩

theorem flt_eq_false_of_fle {a b : F} (h : fle a b = true) : flt b a = false := by
  rwa [fle_iff_not_flt (isNaN_of_fle_left h) (isNaN_of_fle_right h), Bool.not_eq_true'] at h

/-- The clamp of a write, class by class, to a range that holds +0.0: NaN, below the range, above it, and in it (R217, R220). -/
theorem clampWrite_cases {lo : F} (h0 : fle lo fZero = true) (v : F) :
    inRange lo (clampWrite lo v) = true ∧ (isNaN v = true → clampWrite lo v = fZero) ∧
      (flt v lo = true → clampWrite lo v = lo) ∧ (fgt v fOne = true → clampWrite lo v = fOne) ∧
      (inRange lo v = true → clampWrite lo v = v) := by
  refine ⟨Bool.and_eq_true_iff.mpr (clampWrite_bounds h0 v), fun h => if_pos h, fun h => ?below, fun h => ?above,
    fun h => ?inside⟩
  case below =>
    obtain ⟨hnan, -⟩ := isNaN_of_flt h
    simp [clampWrite, hnan, h]
  case above =>
    obtain ⟨-, hnan⟩ := isNaN_of_flt h
    have hlo : fle lo v = true := fle_trans (fle_trans h0 (by decide)) (fle_of_flt h)
    simp [clampWrite, hnan, flt_eq_false_of_fle hlo, h]
  case inside =>
    obtain ⟨hlo, hhi⟩ := Bool.and_eq_true_iff.mp h
    simp [clampWrite, isNaN_of_fle_right hlo, flt_eq_false_of_fle hlo, fgt, flt_eq_false_of_fle hhi]

/-- Settles O13: a dial's range is that of its polarity. -/
theorem dialWriteClamps : Obligations.DialWriteClamps := by
  intro s i v lo hlo
  obtain rfl : lo = dialLow s.cfg.dialPolarity[i] := by
    rw [hlo]
    cases s.cfg.dialPolarity[i] <;> rfl
  refine ⟨?_, exec_busyChecked_of_busy (exec_wrDial i v s), fun hb =>
    ⟨_, exec_busyChecked_of_idle (exec_wrDial i v s) hb, clampWrite_cases (dialLow_le _) v⟩⟩
  exact decodeBus_registerWrite (.dial i) (Nat.add_assoc 0x1800000 0x100 _) v

/-- Settles O14: a breakpoint's range is that of a unipolar dial. -/
theorem envelopeWriteClamps : Obligations.EnvelopeWriteClamps := by
  intro s k v
  refine ⟨?_, exec_busyChecked_of_busy (exec_wrEnv k v s), fun hb =>
    ⟨_, exec_busyChecked_of_idle (exec_wrEnv k v s) hb, clampWrite_cases (by decide) v⟩⟩
  exact decodeBus_registerWrite (.env k) (Nat.add_assoc 0x1800000 0x800 _) v

/-- A field of the low six bits is that of the word. -/
theorem extractLsb'_lowBits {j : Nat} (hj : j + 2 ≤ 6) (v : Word) :
    (v.extractLsb' 0 6).extractLsb' j 2 = v.extractLsb' j 2 := by
  apply BitVec.eq_of_getLsbD_eq
  intro b hb
  have hlow : j + b < 6 := by omega
  simp [hb, hlow]

/-- Settles O15: the stored word is the low six bits of the data word, field by field. -/
theorem slotWriteStoresSelectors : Obligations.SlotWriteStoresSelectors := by
  intro s k v
  refine ⟨?_, exec_busyChecked_of_busy (exec_wrSlot k v s), fun hb =>
    ⟨_, exec_busyChecked_of_idle (exec_wrSlot k v s) hb, ?_, ?_, ?_⟩⟩
  · exact decodeBus_registerWrite (.slot k) (Nat.add_assoc 0x1800000 0x200 _) v
  all_goals exact extractLsb'_lowBits (by decide) v

/-! ## The writes that are refused (R212, R224, R225) -/

/-- Settles O16: a busy-checked write is its effect behind the busy check, whatever the effect. -/
theorem busyChecksIgnoreWrites : Obligations.BusyChecksIgnoreWrites := by
  refine fun s v op hb => ⟨fun hop => ?checked, fun hop => ?unchecked⟩
  case checked =>
    obtain ⟨f, hf⟩ : ∃ f, exec op s = .next (s.busyChecked f) := by
      simp only [List.mem_cons, List.not_mem_nil, or_false] at hop
      rcases hop with (rfl | rfl | rfl) | ⟨i, rfl⟩ | ⟨k, rfl⟩ | ⟨k, rfl⟩ | ⟨rfl, hbit⟩
      · exact ⟨_, exec_wrConfig v s⟩
      · exact ⟨_, exec_wrDuration v s⟩
      · exact ⟨_, exec_wrSectionLength v s⟩
      · exact ⟨_, exec_wrDial i v s⟩
      · exact ⟨_, exec_wrSlot k v s⟩
      · exact ⟨_, exec_wrEnv k v s⟩
      · exact ⟨_, exec_wrCtrl_of_set hbit s⟩
    exact exec_busyChecked_of_busy hf hb
  case unchecked =>
    simp only [List.mem_cons, List.not_mem_nil, or_false] at hop
    rcases hop with (rfl | rfl | rfl | rfl | rfl) | ⟨rfl, hbit⟩
    · exact ⟨_, exec_wrStatus v s, hb, fun h => (Bool.and_eq_true_iff.mp h).1⟩
    · exact ⟨_, exec_wrIrqEn v s, hb, id⟩
    · exact ⟨s, rfl, hb, id⟩
    · exact ⟨s, rfl, hb, id⟩
    · exact ⟨s, rfl, hb, id⟩
    · exact ⟨s, exec_wrCtrl_of_clear hbit s, hb, id⟩

/-- Settles O17: each of the three sets ERR_ADDR, and the read responds with 0. -/
theorem illegalAccessesSetErrAddr : Obligations.IllegalAccessesSetErrAddr :=
  fun s _ _ size addr v => ⟨rfl, exec_badAccess true size addr v s, exec_badAccess false size addr v s⟩

end Sys2Proof.Machine
end

section
/-! PROOF. The host's reads and the start of a render: what each register read returns (R211), the byte lanes of a buffer read (R69,
R223), and what a start writes (R226, R233). -/

open Sys2Proof

namespace Sys2Proof.Machine

/-! ## Register reads (R211) -/

theorem State.toNat_statusWord (s : State) : s.statusWord.toNat =
    s.busy.toNat + 2 * s.done.toNat + 4 * s.errBusy.toNat + 8 * s.errAddr.toNat := by
  rw [statusWord]
  generalize s.busy = b, s.done = d, s.errBusy = e, s.errAddr = a
  revert b d e a
  decide

theorem toNat_flagWord (b : Bool) : ((BitVec.ofBool b).setWidth 32).toNat = b.toNat := by
  cases b <;> rfl

/-- A slot word is its three fields (R83). -/
theorem toNat_slotWord (w : BitVec 6) :
    (w.setWidth 32).toNat = (slotFm w).toNat + 4 * (slotAm w).toNat + 16 * (slotMul w).toNat := by
  revert w
  decide

/-- Settles O6: a read responds with the register's word, which is that of its fields. -/
theorem registerReadsReturnTheirFields : Obligations.RegisterReadsReturnTheirFields := by
  intro s
  refine ⟨exec_rdReg .id s, exec_rdReg .ctrl s, ⟨_, exec_rdReg .status s, s.toNat_statusWord⟩,
    ⟨_, exec_rdReg .config s, toNat_flagWord s.qmode⟩, exec_rdReg .duration s, exec_rdReg .length s, exec_rdReg .progress s,
    ⟨_, exec_rdReg .irqEn s, toNat_flagWord s.doneIe⟩, fun i => exec_rdReg (.dial i) s,
    fun k => ⟨_, exec_rdReg (.slot k) s, toNat_slotWord s.patch.slot[k]⟩, ⟨_, exec_rdReg .sectionLength s, ?_⟩,
    fun k => exec_rdReg (.env k) s⟩
  exact BitVec.toNat_setWidth_of_le (by decide)

/-! ## Buffer reads (R69, R223) -/

theorem State.bufLane_eq (s : State) (i : Nat) :
    s.bufLane i = if s.busy = false ∧ i < s.length.toNat then s.bufByte i else 0#8 := by
  rw [bufLane, ← ite_not]
  exact if_congr (by simp) rfl rfl

/-- With nothing hidden, a lane of the buffer is its byte (R69). -/
theorem State.bufLane_of_idle {s : State} (hb : s.busy = false) {i : Nat} (hi : i < s.length.toNat) :
    s.bufLane i = s.bufByte i := by
  rw [bufLane_eq, if_pos ⟨hb, hi⟩]

theorem State.bufLanes_lt (s : State) (i n : Nat) : s.bufLanes i n < 256 ^ n := by
  induction n generalizing i with
  | zero => exact Nat.one_pos
  | succ n ih =>
    have hlane := (s.bufLane i).isLt
    have hrest := ih (i + 1)
    rw [bufLanes, Nat.pow_succ]
    omega

/-- Digit `k` of the value read is byte lane `k`; past the access it is 0. -/
theorem State.bufLanes_digit (s : State) (i n k : Nat) :
    s.bufLanes i n / 256 ^ k % 256 = if k < n then (s.bufLane (i + k)).toNat else 0 := by
  induction n generalizing i k with
  | zero => simp [bufLanes]
  | succ n ih =>
    have hlane := (s.bufLane i).isLt
    rw [bufLanes]
    cases k with
    | zero =>
      rw [if_pos n.succ_pos, Nat.pow_zero, Nat.div_one, Nat.add_zero i]
      omega
    | succ k =>
      have hshift : ((s.bufLane i).toNat + 256 * s.bufLanes (i + 1) n) / 256 = s.bufLanes (i + 1) n := by omega
      rw [Nat.pow_succ', ← Nat.div_div_eq_div_mul, hshift, ih, Nat.add_right_comm, Nat.add_assoc]
      simp only [Nat.succ_lt_succ_iff]

/-- Byte lane `k` of the data word of a read of at most four bytes. -/
theorem State.extractLsb'_bufRead (s : State) (i : Nat) {n : Nat} (hn : n ≤ 4) (k : Nat) :
    (s.bufRead i n).extractLsb' (8 * k) 8 =
      if k < n ∧ s.busy = false ∧ i + k < s.length.toNat then s.bufByte (i + k) else 0#8 := by
  have hfits : s.bufLanes i n < 2 ^ 32 :=
    (s.bufLanes_lt i n).trans_le (Nat.pow_le_pow_right (by decide) hn)
  have hlane : (s.bufRead i n).extractLsb' (8 * k) 8 = if k < n then s.bufLane (i + k) else 0#8 := by
    apply BitVec.eq_of_toNat_eq
    rw [BitVec.extractLsb'_toNat, bufRead, BitVec.toNat_ofNat, Nat.mod_eq_of_lt hfits, Nat.shiftRight_eq_div_pow, Nat.pow_mul]
    refine (s.bufLanes_digit i n k).trans ?_
    split <;> rfl
  rw [hlane, bufLane_eq]
  simp only [ite_and]

/-- A render of no samples reads as 0 everywhere. -/
theorem State.bufRead_of_empty {s : State} (h : s.length = 0#32) (i n : Nat) : s.bufRead i n = 0#32 := by
  have hlanes : ∀ n i, s.bufLanes i n = 0 := by
    intro n
    induction n with
    | zero => exact fun _ => rfl
    | succ n ih =>
      intro i
      rw [bufLanes, ih, bufLane_eq, if_neg (by simp [h])]
      rfl
  rw [bufRead, hlanes]

/-- Settles O7, for the three widths at once. -/
theorem bufferReadsReturnLanes : Obligations.BufferReadsReturnLanes := by
  intro s i n op hop
  have hread : n ≤ 4 ∧ exec op s = .next (s.respond (s.bufRead i.toNat n)) := by
    simp only [List.mem_cons, Prod.mk.injEq, List.not_mem_nil, or_false] at hop
    rcases hop with ⟨rfl, rfl⟩ | ⟨rfl, rfl⟩ | ⟨rfl, rfl⟩
    · exact ⟨by decide, exec_readOf .w1 i s⟩
    · exact ⟨by decide, exec_readOf .w2 i s⟩
    · exact ⟨by decide, exec_readOf .w4 i s⟩
  obtain ⟨hn, hexec⟩ := hread
  exact ⟨s.bufRead i.toNat n, hexec, fun k _ => s.extractLsb'_bufRead i.toNat hn k⟩

/-! ## The start of a render (R226, R233) -/

/-- The clip capacity fits LENGTH (R9), so LENGTH is the sample count. -/
theorem State.toNat_length_renderStart {s : State} (h : paramsOk s.cfg) : s.renderStart.length.toNat = s.totalSamples := by
  obtain ⟨-, ⟨-, hclip⟩, -⟩ := h
  have htotal := s.totalSamples_le
  exact (BitVec.toNat_ofNat _ _).trans (Nat.mod_eq_of_lt (by omega))

theorem clampInt_floorF_toNat (x : F) {hi : ℤ} (h : 0 ≤ hi) :
    ((clampInt (floorF x) 0 hi).toNat : ℤ) = min (max ⌊fValue x⌋ 0) hi := by
  obtain ⟨h0, -⟩ := clampInt_bounds (floorF x) h
  rw [Int.toNat_of_nonneg h0, clampInt, floorF_eq]

/-- Settles O20: the fields of the fresh render state, and the mode by the sample count. -/
theorem renderStartResetsAndLatches : Obligations.RenderStartResetsAndLatches := by
  intro s hcfg
  have hlength := State.toNat_length_renderStart hcfg
  refine ⟨s.renderStart, exec_renderStart s, rfl, hlength, hlength.symm, fun n => ?_, fun j => ?_, rfl, rfl, rfl,
    clampInt_floorF_toNat _ (by decide), ?_, clampInt_floorF_toNat _ (by decide), rfl, fun h0 => ?_, fun hpos => ?_⟩
  · exact Vector.getElem_replicate n.isLt
  · exact Vector.getElem_replicate j.isLt
  · rw [hlength]
    rfl
  · rw [hlength] at h0
    exact ⟨decide_eq_true h0, if_pos h0⟩
  · rw [hlength] at hpos
    exact ⟨decide_eq_false hpos, if_neg hpos⟩

/-- A render start of some length leaves the block running at PROGRESS 0 (R226). -/
theorem State.renderStart_of_length {s : State} (h : s.renderStart.length.toNat ≠ 0) :
    s.renderStart.busy = true ∧ s.renderStart.progress = 0#32 := by
  have hpos : s.totalSamples ≠ 0 := fun h0 => h (by simp [renderStart, h0])
  exact ⟨if_neg hpos, rfl⟩

/-- No seconds are no samples (R227). -/
theorem State.totalSamples_of_duration_zero {s : State} (h : s.duration = 0#32) : s.totalSamples = 0 := by
  rw [totalSamples, h, BitVec.toNat_zero, Nat.mul_zero, Nat.zero_min]

/-- Settles O21: a start of no samples leaves the block idle with LENGTH 0. -/
theorem zeroLengthRenderCompletesAtOnce : Obligations.ZeroLengthRenderCompletesAtOnce := by
  intro s v i hidle hduration hbit
  have htotal := State.totalSamples_of_duration_zero hduration
  have hlength : s.renderStart.length = 0#32 := congrArg (BitVec.ofNat 32) htotal
  have hbusy : s.renderStart.busy = false := (if_pos htotal).trans hidle
  have hread (w : Width) : exec (readOf w i) s.renderStart = .next (s.renderStart.respond 0#32) := by
    rw [exec_readOf, State.bufRead_of_empty hlength]
  exact ⟨s.renderStart, exec_busyChecked_of_idle (exec_wrCtrl_of_set hbit s) hidle, hlength, rfl, decide_eq_true htotal, hbusy,
    hread .w1, hread .w2, hread .w4, congrArg Host.Outcome.next (State.sampleStep_of_idle hbusy)⟩

end Sys2Proof.Machine
end


section
/-! PROOF. The sample step: what it computes and stores, its pseudocode, and what a render never writes (R228, R231). -/

open Sys2Proof

namespace Sys2Proof.Machine

/-! ## The value of a sample (R175) -/

/-- The state a sample step has computed just before it stores the sample: every oscillator and every later stage performed. -/
def State.voice (s : State) : State := s.oscillators.postStages

/-- The computation of a sample touches the render state and the working set only. -/
theorem State.voice_frame (s : State) : ∃ (r : Render) (d : Datapath), s.voice = (s.setRender r).setDp d ∧
    r.total = s.render.total ∧ r.sps = s.render.sps ∧ r.cl = s.render.cl ∧ r.dcv = s.render.dcv := by
  obtain ⟨ph, d, hosc⟩ := s.oscillators_eq
  obtain ⟨bq, seg, step, cnt, val, d', hpost, -⟩ := s.oscillators.postStages_eq
  rw [voice, hpost, hosc]
  exact ⟨_, d', rfl, rfl, rfl, rfl, rfl⟩

/-! ## The stored sample (R228, R229) -/

theorem State.storeSample_of_last {s : State} (h : s.progress + 1#32 = s.length) : s.storeSample =
    ((s.writeBuf s.progress.toNat s.dp.q).setProgress (s.progress + 1#32)).complete := if_pos h

theorem State.storeSample_of_more {s : State} (h : s.progress + 1#32 ≠ s.length) : s.storeSample =
    (s.writeBuf s.progress.toNat s.dp.q).setProgress (s.progress + 1#32) := if_neg h

theorem exec_sampleStep (s : State) : exec .sampleStep s = .next s.sampleStep := rfl

/-- A sample step of a running render, field by field. -/
theorem State.sampleStep_eq {s : State} (hb : s.busy = true) : s.sampleStep = { s with
    render := s.voice.render
    buf := Memory.write s.buf s.progress.toNat s.voice.dp.q
    progress := s.progress + 1#32
    busy := decide (s.progress + 1#32 ≠ s.length)
    done := s.done || decide (s.progress + 1#32 = s.length)
    dp := Datapath.rest } := by
  obtain ⟨r, d, hv, -⟩ := s.voice_frame
  rw [sampleStep, if_pos hb, ← voice, hv]
  by_cases h : s.progress + 1#32 = s.length
  · rw [storeSample_of_last (s := (s.setRender r).setDp d) h, decide_eq_true h, decide_eq_false (not_not.mpr h), Bool.or_true]
    simp only [complete, writeBuf, setProgress, setDp, setRender]
  · rw [storeSample_of_more (s := (s.setRender r).setDp d) h, decide_eq_false h, decide_eq_true h, Bool.or_false, ← hb]
    simp only [writeBuf, setProgress, setDp, setRender]

/-- Running or idle, a sample step leaves every register but PROGRESS, BUSY and DONE, the patch, the configuration, the
returned data and the schedule. -/
theorem State.sampleStep_frame (s : State) : s.sampleStep = { s with
    render := s.sampleStep.render, buf := s.sampleStep.buf, progress := s.sampleStep.progress
    busy := s.sampleStep.busy, done := s.sampleStep.done, dp := s.sampleStep.dp } := by
  cases hb : s.busy with
  | false => rw [sampleStep_of_idle hb]
  | true => rw [sampleStep_eq hb]

@[simp] theorem State.sampleStep_length (s : State) : s.sampleStep.length = s.length := by
  rw [sampleStep_frame]

@[simp] theorem State.sampleStep_agenda (s : State) : s.sampleStep.agenda = s.agenda := by
  rw [sampleStep_frame]

/-! ## The pseudocode of a sample step (R175, R228) -/

theorem execAll_oscEval (l : List (Fin 8)) (s : State) :
    execAll (l.map Instr.oscEval) s = .next (l.foldl (fun s n => s.oscEval n) s) := by
  induction l generalizing s with
  | nil => rfl
  | cons n l ih => exact andThen_of_next (exec_oscEval n s) (ih _)

/-- The crush operation that CL selects (R90). -/
theorem exec_selectedCrush (s : State) :
    exec (if 0 < s.render.cl then .crushHold s.dp.v else .crushOff s.dp.v) s = .next s.crush := by
  rw [State.crush, State.crushOn]
  simp only [decide_eq_true_eq]
  split <;> rfl

/-- The envelope operation that SEG selects (R90). -/
theorem exec_selectedEnvelope (s : State) :
    exec (if s.render.seg = 465 then .envHold else .envInterp) s = .next s.envValue := by
  have hsat : s.envSat = decide (s.render.seg = 465) := rfl
  rw [State.envValue, hsat]
  simp only [decide_eq_true_eq]
  split <;> rfl

/-- The quantizer that QMODE selects (R188). -/
theorem exec_selectedQuantizer (s : State) :
    exec (if s.qmode then .quantClamp s.dp.s else .quantWrap s.dp.s) s = .next s.quantize := by
  rw [State.quantize]
  split <;> rfl

/-- The end of the pseudocode: the byte at index PROGRESS, PROGRESS incremented, and the completion with the last sample. -/
theorem exec_storedSample {s : State} (hb : s.busy = true) :
    let t : State := { s.voice with
      buf := Memory.write s.voice.buf s.progress.toNat s.voice.dp.q, progress := s.progress + 1#32, dp := Datapath.rest }
    (if s.progress + 1#32 = s.length then exec .renderComplete t else .next t) = exec .sampleStep s := by
  obtain ⟨r, d, hv, -⟩ := s.voice_frame
  rw [exec_sampleStep, State.sampleStep, if_pos hb, ← State.voice, hv]
  by_cases h : s.progress + 1#32 = s.length
  · rw [State.storeSample_of_last (s := (s.setRender r).setDp d) h]
    exact if_pos h
  · rw [State.storeSample_of_more (s := (s.setRender r).setDp d) h]
    exact if_neg h

/-- Settles O23: the stages are the operations selected one after another, and the stored sample completes the step. -/
theorem sampleStepFollowsItsPseudocode : Obligations.SampleStepFollowsItsPseudocode := by
  refine ⟨fun s h => congrArg Host.Outcome.next (State.sampleStep_of_idle h), fun s hb => ⟨Datapath.rest, Eq.symm ?_⟩⟩
  refine andThen_of_next (execAll_oscEval evalOrder s) ?_
  refine andThen_of_next (exec_bqCascade _ _) (andThen_of_next (exec_selectedCrush _) ?_)
  refine andThen_of_next (exec_selectedEnvelope _) (andThen_of_next (exec_envAdvance _) ?_)
  exact andThen_of_next rfl (andThen_of_next (exec_selectedQuantizer _) (exec_storedSample hb))

/-- Settles O24: the frame of a sample step, the one byte it writes, and the mode after it. -/
theorem sampleStepChangesOnlyTheRender : Obligations.SampleStepChangesOnlyTheRender := by
  intro s hb
  obtain ⟨r, d, hv, htotal, hsps, hcl, hdcv⟩ := s.voice_frame
  refine ⟨s.sampleStep, exec_sampleStep s, ?_⟩
  rw [State.sampleStep_eq hb, hv]
  refine ⟨rfl, fun i hi => Memory.read_write_ne s.buf _ hi, htotal, hsps, hcl, hdcv, ?_⟩
  split
  · rename_i h
    exact ⟨decide_eq_false (not_not.mpr h), by simp [h]⟩
  · rename_i h
    exact ⟨decide_eq_true h, by simp [h]⟩

/-! ## What a render reads and never writes (R231) -/

/-- The patch, CONFIG, DURATION and the configuration: what a render is made from. -/
def State.sources (s : State) : Patch × Bool × Word × Params := (s.patch, s.qmode, s.duration, s.cfg)

theorem State.sources_eq_iff {s t : State} : t.sources = s.sources ↔
    t.patch = s.patch ∧ t.qmode = s.qmode ∧ t.duration = s.duration ∧ t.cfg = s.cfg := by
  simp [sources]

@[simp] theorem State.sources_renderStart (s : State) : s.renderStart.sources = s.sources := rfl

@[simp] theorem State.sources_sampleStep (s : State) : s.sampleStep.sources = s.sources := by
  rw [sampleStep_frame]
  rfl

@[simp] theorem State.sources_setDp (s : State) (d : Datapath) : (s.setDp d).sources = s.sources := rfl

@[simp] theorem State.sources_setRender (s : State) (r : Render) : (s.setRender r).sources = s.sources := rfl

@[simp] theorem State.sources_oscEval (s : State) (n : Fin 8) : (s.oscEval n).sources = s.sources := by
  obtain ⟨p, d, g, -, h⟩ := s.oscEval_eq n
  rw [h]
  rfl

@[simp] theorem State.sources_bqCascade (s : State) (x : F) : (s.bqCascade x).sources = s.sources := by
  obtain ⟨bq, v, h⟩ := s.bqCascade_eq x
  rw [h]
  rfl

@[simp] theorem State.sources_crushHold (s : State) (v : F) : (s.crushHold v).sources = s.sources := by
  rw [crushHold]
  split <;> rfl

@[simp] theorem State.sources_envInterp (s : State) : s.envInterp.sources = s.sources := by
  rw [envInterp]
  split <;> rfl

@[simp] theorem State.sources_envAdvance (s : State) : s.envAdvance.sources = s.sources := by
  rw [envAdvance]
  split <;> rfl

theorem sources_sampleSteps (n : Nat) (s : State) : (sampleSteps n s).sources = s.sources := by
  induction n generalizing s with
  | zero => rfl
  | succ n ih => exact (ih s.sampleStep).trans s.sources_sampleStep

/-- An operation that no transaction selects keeps the sources of a render: the operations that write them are register
writes, and a transaction selects each of those (R93). -/
theorem exec_sources {op : Instr} (hop : ∀ (T : Desc) (d : Word), op ≠ decodeBus T d) (s : State) :
    ∃ t, exec op s = .next t ∧ t.sources = s.sources := by
  have hwrite (r : RegName) (v : Word) : op ≠ writeOf r v := fun h => hop _ v (h.trans (decodeBus_register true r v).symm)
  cases op with
  | wrCtrl v => exact absurd rfl (hwrite .ctrl v)
  | wrConfig v => exact absurd rfl (hwrite .config v)
  | wrDuration v => exact absurd rfl (hwrite .duration v)
  | wrSectionLength v => exact absurd rfl (hwrite .sectionLength v)
  | wrDial i v => exact absurd rfl (hwrite (.dial i) v)
  | wrSlot k v => exact absurd rfl (hwrite (.slot k) v)
  | wrEnv k v => exact absurd rfl (hwrite (.env k) v)
  | badAccess we size addr v =>
    refine ⟨_, exec_badAccess we size addr v s, ?_⟩
    split <;> rfl
  | sampleStep => exact ⟨_, rfl, s.sources_sampleStep⟩
  | oscEval n => exact ⟨_, rfl, s.sources_oscEval n⟩
  | bqCascade x => exact ⟨_, rfl, s.sources_bqCascade x⟩
  | crushHold v => exact ⟨_, rfl, s.sources_crushHold v⟩
  | envInterp => exact ⟨_, rfl, s.sources_envInterp⟩
  | envAdvance => exact ⟨_, rfl, s.sources_envAdvance⟩
  | phaseAdvance n f => exact ⟨_, rfl, s.sources_setRender _⟩
  | bqActive j x => exact ⟨_, rfl, (State.sources_setDp _ _).trans (s.sources_setRender _)⟩
  | rdReg r => exact ⟨_, exec_rdReg r s, rfl⟩
  | rdBuf8 | rdBuf16 | rdBuf32 | wrId | wrStatus | wrLength | wrProgress | wrIrqEn | wrBuf | renderStart
  | renderComplete | fmOff | amOff | mulOff => exact ⟨_, rfl, rfl⟩
  | _ => exact ⟨_, rfl, s.sources_setDp _⟩

/-- Settles O57: operation by operation, and along the sample steps of a render. -/
theorem rendersNeverWriteThePatch : Obligations.RendersNeverWriteThePatch := by
  refine ⟨fun s op hop => ?_, fun s r n hr => ?_⟩
  · obtain ⟨t, hexec, hsources⟩ := exec_sources hop s
    exact ⟨t, hexec, State.sources_eq_iff.mp hsources⟩
  · cases (exec_renderStart s).symm.trans hr
    exact congrArg Prod.fst ((sources_sampleSteps n s.renderStart).trans s.sources_renderStart)

end Sys2Proof.Machine
end

section
/-! PROOF. A render left alone: the sample steps of a running render up to its completion (R228, R271). -/

open Sys2Proof

namespace Sys2Proof.Machine

/-! ## One sample step of a running render -/

theorem toNat_add_one_of_lt {a b : Word} (h : a.toNat < b.toNat) : (a + 1#32).toNat = a.toNat + 1 := by
  bv_omega

/-- Before the last sample the render goes on. -/
theorem State.sampleStep_of_more {s : State} (hb : s.busy = true) (h : s.progress.toNat + 1 < s.length.toNat) :
    s.sampleStep.busy = true ∧ s.sampleStep.progress.toNat = s.progress.toNat + 1 := by
  have hnext : (s.progress + 1#32).toNat = s.progress.toNat + 1 := toNat_add_one_of_lt (Nat.lt_of_succ_lt h)
  rw [sampleStep_eq hb]
  exact ⟨decide_eq_true fun e => by rw [← e, hnext] at h; omega, hnext⟩

/-- The last sample completes the render. -/
theorem State.sampleStep_of_last {s : State} (hb : s.busy = true) (h : s.progress.toNat + 1 = s.length.toNat) :
    s.sampleStep.busy = false ∧ s.sampleStep.done = true ∧ s.sampleStep.progress = s.length := by
  have hlast : s.progress + 1#32 = s.length :=
    BitVec.eq_of_toNat_eq ((toNat_add_one_of_lt (b := s.length) (by omega)).trans h)
  rw [sampleStep_eq hb]
  exact ⟨decide_eq_false (not_not.mpr hlast), by simp [hlast], hlast⟩

/-! ## Any number of sample steps -/

theorem sampleSteps_succ (n : Nat) (s : State) : sampleSteps (n + 1) s = (sampleSteps n s).sampleStep := by
  induction n generalizing s with
  | zero => rfl
  | succ n ih => exact ih s.sampleStep

@[simp] theorem length_sampleSteps (n : Nat) (s : State) : (sampleSteps n s).length = s.length := by
  induction n generalizing s with
  | zero => rfl
  | succ n ih => exact (ih s.sampleStep).trans s.sampleStep_length

/-- Until the last sample the render runs, one sample further with each step. -/
theorem sampleSteps_running {s : State} (hb : s.busy = true) {k : Nat} (hk : s.progress.toNat + k < s.length.toNat) :
    (sampleSteps k s).busy = true ∧ (sampleSteps k s).progress.toNat = s.progress.toNat + k := by
  induction k with
  | zero => exact ⟨hb, rfl⟩
  | succ k ih =>
    obtain ⟨hrun, hprogress⟩ := ih (by omega)
    obtain ⟨hrun', hprogress'⟩ := State.sampleStep_of_more hrun (by rw [hprogress, length_sampleSteps]; omega)
    rw [sampleSteps_succ]
    exact ⟨hrun', by rw [hprogress', hprogress, Nat.add_assoc]⟩

/-- The steps from PROGRESS up to LENGTH complete the render. -/
theorem sampleSteps_complete {s : State} (hb : s.busy = true) {n : Nat} (hn : s.progress.toNat + n + 1 = s.length.toNat) :
    (sampleSteps (n + 1) s).busy = false ∧ (sampleSteps (n + 1) s).done = true ∧
      (sampleSteps (n + 1) s).progress = s.length := by
  obtain ⟨hrun, hprogress⟩ := sampleSteps_running hb (k := n) (by omega)
  rw [sampleSteps_succ, ← length_sampleSteps n s]
  exact State.sampleStep_of_last hrun (by rw [hprogress, length_sampleSteps, hn])

/-! ## Runs of the block -/

/-- A run goes on from the state its first transition answers. -/
theorem run_succ_of_step {s t : State} (h : step s = .next t) (n : Nat) :
    Sys2Proof.core.run (n + 1) s = Sys2Proof.core.run n t := by
  have hcore : Sys2Proof.core.step s = .next t := h
  simp only [Host.Core.run, hcore]

/-- With nothing pending the transitions are sample steps (R271; log entry 6). -/
theorem run_eq_sampleSteps {s : State} (h : s.agenda = []) (n : Nat) : Sys2Proof.core.run n s = .next (sampleSteps n s) := by
  induction n generalizing s with
  | zero => rfl
  | succ n ih => exact (run_succ_of_step (step_of_nil h) n).trans (ih (s.sampleStep_agenda.trans h))

/-- Settles O54: the transitions of a block left alone are the sample steps of its render. -/
theorem runningRenderCompletes : Obligations.RunningRenderCompletes := by
  intro s hb hagenda hlt
  refine ⟨⟨_, run_eq_sampleSteps hagenda _, ?_⟩, fun k hk =>
    ⟨_, run_eq_sampleSteps hagenda k, sampleSteps_running hb (by omega)⟩⟩
  obtain ⟨n, hn⟩ : ∃ n, s.length.toNat - s.progress.toNat = n + 1 := ⟨s.length.toNat - s.progress.toNat - 1, by omega⟩
  obtain ⟨hidle, hdone, hprogress⟩ := sampleSteps_complete hb (n := n) (by omega)
  rw [hn]
  exact ⟨hidle, hdone, hprogress, length_sampleSteps _ s⟩

end Sys2Proof.Machine
end

section
/-! PROOF. What the sample of a step depends on: the configuration, the patch, CONFIG, the render state and the working set, and
nothing else of the block (R175, R230, R232). -/

open Sys2Proof

namespace Sys2Proof.Machine

/-! ## A block that sounds as another -/

/-- The block `o` with everything from which `s` computes a sample. -/
def State.onto (s o : State) : State :=
  { o with cfg := s.cfg, patch := s.patch, qmode := s.qmode, render := s.render, dp := s.dp }

/-- A block is one that sounds as `s` when the five parts agree. -/
theorem State.onto_eq_self {s t : State} (hcfg : s.cfg = t.cfg) (hpatch : s.patch = t.patch) (hqmode : s.qmode = t.qmode)
    (hrender : s.render = t.render) (hdp : s.dp = t.dp) : s.onto t = t := by
  rw [onto, hcfg, hpatch, hqmode, hrender, hdp]

@[simp] theorem State.onto_patch (s o : State) : (s.onto o).patch = s.patch := rfl

@[simp] theorem State.onto_render (s o : State) : (s.onto o).render = s.render := rfl

@[simp] theorem State.onto_dp (s o : State) : (s.onto o).dp = s.dp := rfl

/-! ## Every stage computes the same in the other block -/

section Stages

variable (s o : State)

theorem State.onto_loadBase (n : Fin 8) : (s.onto o).loadBase n = (s.loadBase n).onto o := rfl

theorem State.onto_applyFm (k : Fin 10) : (s.onto o).applyFm k = (s.applyFm k).onto o := by
  rw [applyFm, applyFm, onto_patch]
  split_ifs <;> rfl

theorem State.onto_applyAm (k : Fin 10) : (s.onto o).applyAm k = (s.applyAm k).onto o := by
  rw [applyAm, applyAm, onto_patch]
  split_ifs <;> rfl

theorem State.onto_applyMul (k : Fin 10) : (s.onto o).applyMul k = (s.applyMul k).onto o := by
  rw [applyMul, applyMul, onto_patch]
  split_ifs <;> rfl

theorem State.onto_modulate (ks : List (Fin 10)) : (s.onto o).modulate ks = (s.modulate ks).onto o :=
  List.foldl_hom (fun u : State => u.onto o) fun u k => by rw [onto_applyFm, onto_applyAm]

theorem State.onto_generate (n : Fin 8) : (s.onto o).generate n = (s.generate n).onto o := rfl

theorem State.onto_combine (ks : List (Fin 10)) : (s.onto o).combine ks = (s.combine ks).onto o :=
  List.foldl_hom (fun u : State => u.onto o) fun u k => onto_applyMul u o k

theorem State.onto_oscEval (n : Fin 8) : (s.onto o).oscEval n = (s.oscEval n).onto o := by
  simp only [oscEval, onto_loadBase, onto_modulate, onto_generate, onto_combine]
  rfl

theorem State.onto_oscillators : (s.onto o).oscillators = s.oscillators.onto o :=
  List.foldl_hom (fun u : State => u.onto o) fun u n => onto_oscEval u o n

theorem State.onto_bqSection (j : Fin 3) : (s.onto o).bqSection j = (s.bqSection j).onto o := by
  have hbypassed : (s.onto o).bypassed j = s.bypassed j := bypassed_congr rfl rfl j
  rw [bqSection, bqSection, hbypassed]
  split <;> rfl

theorem State.onto_bqCascade (x : F) : (s.onto o).bqCascade x = (s.bqCascade x).onto o := by
  have hreturn : (s.onto o).returnV x = (s.returnV x).onto o := rfl
  simp only [bqCascade, hreturn, onto_bqSection]

theorem State.onto_crushHold (v : F) : (s.onto o).crushHold v = (s.crushHold v).onto o := by
  rw [crushHold, crushHold, onto_render]
  split <;> rfl

theorem State.onto_crush : (s.onto o).crush = s.crush.onto o := by
  have hon : (s.onto o).crushOn = s.crushOn := rfl
  rw [crush, crush, hon]
  split
  · exact s.onto_crushHold o _
  · rfl

theorem State.onto_envInterp : (s.onto o).envInterp = s.envInterp.onto o := by
  by_cases h : s.render.seg < 465
  · rw [envInterp, envInterp, dif_pos h]
    exact dif_pos h
  · rw [envInterp, envInterp, dif_neg h]
    exact dif_neg h

theorem State.onto_envValue : (s.onto o).envValue = s.envValue.onto o := by
  have hsat : (s.onto o).envSat = s.envSat := rfl
  rw [envValue, envValue, hsat]
  split
  · rfl
  · exact s.onto_envInterp o

theorem State.onto_envAdvance : (s.onto o).envAdvance = s.envAdvance.onto o := by
  rw [envAdvance, envAdvance, onto_render]
  split <;> rfl

theorem State.onto_postScaled (e v : F) : (s.onto o).postScaled e v = (s.postScaled e v).onto o := rfl

theorem State.onto_quantize : (s.onto o).quantize = s.quantize.onto o := rfl

theorem State.onto_postStages : (s.onto o).postStages = s.postStages.onto o := by
  simp only [postStages, onto_dp, onto_bqCascade, onto_crush, onto_envValue, onto_envAdvance, onto_postScaled, onto_quantize]

theorem State.onto_voice : (s.onto o).voice = s.voice.onto o := by
  rw [voice, onto_oscillators, onto_postStages, voice]

end Stages

/-- Two blocks that agree in the five parts compute the same sample and the same render state. -/
theorem State.voice_congr {s t : State} (h : s.onto t = t) :
    t.voice.render = s.voice.render ∧ t.voice.dp = s.voice.dp := by
  have hvoice := s.onto_voice t
  rw [h] at hvoice
  rw [hvoice]
  exact ⟨s.voice.onto_render t, s.voice.onto_dp t⟩

end Sys2Proof.Machine
end

section
/-! PROOF. A render amid host accesses: while it runs a transaction touches the flags, IRQ_EN and the returned data only, so a
schedule without a reset does to the render what its engine turns do (R212, R230). -/

open Sys2Proof

namespace Sys2Proof.Machine

/-! ## A transaction while a render runs -/

/-- `t` is `s` but for the flags DONE, ERR_BUSY and ERR_ADDR, IRQ_EN and the returned data. -/
def State.OnlyHostSide (s t : State) : Prop :=
  t = { s with done := t.done, errBusy := t.errBusy, errAddr := t.errAddr, doneIe := t.doneIe, rdata := t.rdata }

theorem State.onlyHostSide_busyChecked {s : State} (hb : s.busy = true) (f : State → State) :
    s.OnlyHostSide (s.busyChecked f) := by
  rw [busyChecked_of_busy hb]
  rfl

/-- A register write while a render runs (R212). -/
theorem exec_writeOf_of_busy {s : State} (hb : s.busy = true) (r : RegName) (v : Word) :
    ∃ t, exec (writeOf r v) s = .next t ∧ s.OnlyHostSide t := by
  cases r with
  | id | length | progress => exact ⟨s, rfl, rfl⟩
  | status => exact ⟨_, exec_wrStatus v s, rfl⟩
  | irqEn => exact ⟨_, exec_wrIrqEn v s, rfl⟩
  | ctrl =>
    refine ⟨_, rfl, ?_⟩
    split
    · exact State.onlyHostSide_busyChecked hb _
    · rfl
  | config | duration | dial | slot | sectionLength | env => exact ⟨_, rfl, State.onlyHostSide_busyChecked hb _⟩

/-- Any transaction while a render runs: an illegal access and a write of the buffer set ERR_ADDR, and a read responds
(R66, R224, R225). -/
theorem exec_decodeBus_of_busy {s : State} (hb : s.busy = true) (T : Desc) (d : Word) :
    ∃ t, exec (decodeBus T d) s = .next t ∧ s.OnlyHostSide t := by
  rcases decodeBus_cases T d with ⟨-, hop⟩ | ⟨r, -, -, hop⟩ | ⟨w, i, -, -, -, hop⟩ <;> rw [hop]
  · refine ⟨_, exec_badAccess _ _ _ _ s, ?_⟩
    split <;> rfl
  · split
    · exact exec_writeOf_of_busy hb r d
    · exact ⟨_, exec_rdReg r s, rfl⟩
  · split
    · exact ⟨_, rfl, rfl⟩
    · exact ⟨_, exec_readOf w i s, rfl⟩

/-! ## What a render reads and writes -/

namespace State.sameRender

variable {s t u : State}

theorem trans (h : s.sameRender t) (h' : t.sameRender u) : s.sameRender u := by
  obtain ⟨hcfg, hpatch, hbusy, hqmode, hduration, hlength, hprogress, hrender, hbuf, hdp⟩ := h
  simpa [State.sameRender, hcfg, hpatch, hbusy, hqmode, hduration, hlength, hprogress, hrender, hbuf, hdp] using h'

theorem of_onlyHostSide (h : s.OnlyHostSide t) : t.sameRender s := by
  rw [h]
  exact ⟨rfl, rfl, rfl, rfl, rfl, rfl, rfl, rfl, rfl, rfl⟩

theorem setAgenda (s : State) (l : List Event) : (s.setAgenda l).sameRender s :=
  ⟨rfl, rfl, rfl, rfl, rfl, rfl, rfl, rfl, rfl, rfl⟩

/-- A sample step takes blocks with the same render to blocks with the same render. -/
theorem sampleStep (h : s.sameRender t) : s.sampleStep.sameRender t.sampleStep := by
  have hsame := h
  obtain ⟨hcfg, hpatch, hbusy, hqmode, hduration, hlength, hprogress, hrender, hbuf, hdp⟩ := h
  cases hb : t.busy with
  | false => rwa [State.sampleStep_of_idle hb, State.sampleStep_of_idle (hbusy.trans hb)]
  | true =>
    obtain ⟨hvrender, hvdp⟩ := State.voice_congr (State.onto_eq_self hcfg hpatch hqmode hrender hdp)
    rw [State.sampleStep_eq hb, State.sampleStep_eq (hbusy.trans hb), hvrender, hvdp]
    simp only [State.sameRender, hcfg, hpatch, hqmode, hduration, hlength, hprogress, hbuf, and_self]

end State.sameRender

/-! ## Schedules (R6, R70; log entry 6) -/

theorem engineTurns_host (T : Desc) (d : Word) (l : List Event) : engineTurns (.host T d :: l) = engineTurns l := by
  simp [engineTurns]

theorem engineTurns_engine (l : List Event) : engineTurns (.engine :: l) = engineTurns l + 1 := by
  simp [engineTurns]

/-- A pending transaction leaves the running render as it is. -/
theorem step_host_sameRender {s u : State} (h : s.sameRender u) (hb : u.busy = true) {T : Desc} {d : Word} {rest : List Event}
    (ha : s.agenda = .host T d :: rest) : ∃ t, step s = .next t ∧ t.agenda = rest ∧ t.sameRender u := by
  have hrest := State.sameRender.setAgenda s rest
  have hbusy : (s.setAgenda rest).busy = true := by
    obtain ⟨-, -, hbusy, -⟩ := h
    exact hbusy.trans hb
  obtain ⟨t, hexec, hside⟩ := exec_decodeBus_of_busy hbusy T d
  refine ⟨t, (step_of_cons ha).trans hexec, ?_, ((State.sameRender.of_onlyHostSide hside).trans hrest).trans h⟩
  rw [hside]
  rfl

/-- A pending turn of the engine is a sample step of the render. -/
theorem step_engine_sameRender {s u : State} (h : s.sameRender u) {rest : List Event} (ha : s.agenda = .engine :: rest) :
    ∃ t, step s = .next t ∧ t.agenda = rest ∧ t.sameRender u.sampleStep :=
  ⟨(s.setAgenda rest).sampleStep, step_of_cons ha, State.sampleStep_agenda _,
    ((State.sameRender.setAgenda s rest).trans h).sampleStep⟩

/-- After a schedule without a reset, short of the last sample, the render is where its sample steps alone take it, and the run
goes on from there. -/
theorem run_schedule {l rest : List Event} (hl : ∀ e ∈ l, e ≠ .reset) {s u : State} (ha : s.agenda = l ++ rest)
    (h : s.sameRender u) (hb : u.busy = true) (hlt : u.progress.toNat + engineTurns l < u.length.toNat) :
    ∃ t, (∀ k, Sys2Proof.core.run (l.length + k) s = Sys2Proof.core.run k t) ∧ t.agenda = rest ∧
      t.sameRender (sampleSteps (engineTurns l) u) := by
  induction l generalizing s u with
  | nil => exact ⟨s, fun k => by rw [List.length_nil, Nat.zero_add], ha, h⟩
  | cons e l ih =>
    have hl' : ∀ e ∈ l, e ≠ .reset := fun e he => hl e (List.mem_cons_of_mem _ he)
    have hrun {s t : State} (hstep : step s = .next t) (k : Nat) :
        Sys2Proof.core.run ((e :: l).length + k) s = Sys2Proof.core.run (l.length + k) t := by
      rw [List.length_cons, Nat.add_right_comm, run_succ_of_step hstep]
    cases e with
    | host T d =>
      rw [engineTurns_host] at hlt ⊢
      obtain ⟨t₀, hstep, ha₀, h₀⟩ := step_host_sameRender h hb ha
      obtain ⟨t, hgoes, hrest, hsame⟩ := ih hl' ha₀ h₀ hb hlt
      exact ⟨t, fun k => (hrun hstep k).trans (hgoes k), hrest, hsame⟩
    | engine =>
      rw [engineTurns_engine] at hlt ⊢
      obtain ⟨t₀, hstep, ha₀, h₀⟩ := step_engine_sameRender h ha
      obtain ⟨hb', hprogress⟩ := State.sampleStep_of_more hb (by omega)
      obtain ⟨t, hgoes, hrest, hsame⟩ := ih hl' ha₀ h₀ hb' (by rw [hprogress, u.sampleStep_length]; omega)
      exact ⟨t, fun k => (hrun hstep k).trans (hgoes k), hrest, hsame⟩
    | reset => exact absurd rfl (hl .reset List.mem_cons_self)

/-! ## The obligation -/

/-- A running block whose agenda is the last turn of its engine completes its render. -/
theorem step_last_sameRender {s u : State} (h : s.sameRender u) (hb : u.busy = true)
    (hlast : u.progress.toNat + 1 = u.length.toNat) (ha : s.agenda = [.engine]) :
    ∃ t, step s = .next t ∧ t.done = true ∧ t.sameRender u.sampleStep := by
  have hsame := (State.sameRender.setAgenda s []).trans h
  refine ⟨(s.setAgenda []).sampleStep, step_of_cons ha, ?_, hsame.sampleStep⟩
  obtain ⟨-, -, hbusy, -, -, hlength, hprogress, -⟩ := hsame
  obtain ⟨-, hdone, -⟩ := State.sampleStep_of_last (hbusy.trans hb) (by rw [hprogress, hlength, hlast])
  exact hdone

/-- Settles O55: along the schedule the render is that of its sample steps, up to the last one and with it. -/
theorem hostAccessesDoNotDisturbARender : Obligations.HostAccessesDoNotDisturbARender := by
  refine ⟨fun s l hb hl hlt => ?schedule, fun s r l hidle hr hl hlen => ?render⟩
  case schedule =>
    obtain ⟨t, hrun, -, hsame⟩ := run_schedule (s := s.setAgenda l) (u := s.setAgenda []) hl (List.append_nil l).symm
      (State.sameRender.setAgenda s l) hb hlt
    exact ⟨t, _, hrun 0, run_eq_sampleSteps rfl _, hsame⟩
  case render =>
    cases (exec_renderStart s).symm.trans hr
    obtain ⟨hb, hzero⟩ := State.renderStart_of_length (s := s) (by omega)
    have hpos : s.renderStart.progress.toNat = 0 := congrArg BitVec.toNat hzero
    obtain ⟨t₀, hrun, ha, hsame⟩ := run_schedule (s := s.renderStart.setAgenda (l ++ [.engine])) hl rfl
      (State.sameRender.setAgenda _ _) hb (by omega)
    obtain ⟨hb₀, hprogress₀⟩ := sampleSteps_running hb (k := engineTurns l) (by omega)
    obtain ⟨t, hstep, hdone, hsame'⟩ := step_last_sameRender hsame hb₀ (by rw [hprogress₀, length_sampleSteps]; omega) ha
    obtain ⟨hidle', -, hprogress'⟩ := sampleSteps_complete hb (n := engineTurns l) (by omega)
    rw [← sampleSteps_succ, hlen] at hsame'
    rw [hlen] at hidle' hprogress'
    obtain ⟨-, hpatch, hbusy, -, -, hlength, hprogress, -, hbuf, -⟩ := hsame'
    rw [length_sampleSteps] at hlength
    refine ⟨t, (hrun 1).trans (run_succ_of_step hstep 0), hbusy.trans hidle', hdone, hlength, hprogress.trans hprogress',
      ?_, fun i hi => ?_⟩
    · exact hpatch.trans (congrArg Prod.fst (sources_sampleSteps _ s.renderStart))
    · rw [State.bufLane_of_idle (hbusy.trans hidle') (by rwa [hlength]), State.bufByte, hbuf, State.bufByte]

end Sys2Proof.Machine
end

section
/-! PROOF. Two renders with equal inputs: their sample steps compute equal samples, and every sample already stored is equal
(R232). -/

open Sys2Proof

namespace Sys2Proof.Machine

/-- Two blocks at the same sample of the same render, whatever their buffers held before: what a sample is computed from agrees, and
so do the samples stored so far. -/
structure State.SameSamples (s t : State) : Prop where
  inv_left : s.Inv
  inv_right : t.Inv
  sources : s.sources = t.sources
  render : s.render = t.render
  busy : s.busy = t.busy
  length : s.length = t.length
  progress : s.progress = t.progress
  stored : ∀ i < s.progress.toNat, s.bufByte i = t.bufByte i

namespace State

/-- What the invariant says of a running render's position and of the buffer (R32, R33, R42). -/
theorem Inv.progress_lt {s : State} (h : s.Inv) (hb : s.busy = true) : s.progress.toNat < s.length.toNat := by
  obtain ⟨-, -, -, ⟨-, -, -, hrun⟩, -⟩ := h
  exact (hrun hb).1

theorem Inv.buf_wf {s : State} (h : s.Inv) : Memory.wf s.buf := by
  obtain ⟨-, -, -, -, hbuf, -⟩ := h
  exact hbuf

theorem Inv.dp_rest {s : State} (h : s.Inv) : s.dp = Datapath.rest := by
  obtain ⟨-, -, -, -, -, hdp⟩ := h
  exact hdp

theorem bufByte_sampleStep_ne {s : State} (hb : s.busy = true) {i : Nat} (hi : i ≠ s.progress.toNat) :
    s.sampleStep.bufByte i = s.bufByte i := by
  rw [sampleStep_eq hb]
  exact Memory.read_write_ne s.buf _ hi

namespace SameSamples

variable {s t : State}

theorem onto_eq (h : s.SameSamples t) : s.onto t = t := by
  obtain ⟨hpatch, hqmode, -, hcfg⟩ := sources_eq_iff.mp h.sources
  exact onto_eq_self hcfg hpatch hqmode h.render (h.inv_left.dp_rest.trans h.inv_right.dp_rest.symm)

/-- The next sample of both is the same byte at the same index. -/
theorem stored_sampleStep (h : s.SameSamples t) (hs : s.busy = true) (ht : t.busy = true) {i : Nat}
    (hi : i < s.progress.toNat + 1) : s.sampleStep.bufByte i = t.sampleStep.bufByte i := by
  obtain ⟨-, hdp⟩ := voice_congr h.onto_eq
  by_cases hlast : i = s.progress.toNat
  · have hleft := bufByte_sampleStep hs h.inv_left.buf_wf
    have hright := bufByte_sampleStep ht h.inv_right.buf_wf
    rw [← h.progress, ← hlast] at hright
    rw [← hlast] at hleft
    exact hleft.trans ((congrArg Datapath.q hdp).symm.trans hright.symm)
  · rw [bufByte_sampleStep_ne hs hlast, bufByte_sampleStep_ne ht (h.progress ▸ hlast)]
    exact h.stored i (by omega)

theorem sampleStep (h : s.SameSamples t) : s.sampleStep.SameSamples t.sampleStep := by
  cases ht : t.busy with
  | false => rwa [sampleStep_of_idle ht, sampleStep_of_idle (h.busy.trans ht)]
  | true =>
    have hs : s.busy = true := h.busy.trans ht
    obtain ⟨hrender, -⟩ := voice_congr h.onto_eq
    have hnext : s.sampleStep.progress.toNat = s.progress.toNat + 1 := by
      rw [sampleStep_eq hs]
      exact toNat_add_one_of_lt (h.inv_left.progress_lt hs)
    exact {
      inv_left := h.inv_left.sampleStep
      inv_right := h.inv_right.sampleStep
      sources := by rw [sources_sampleStep, sources_sampleStep, h.sources]
      render := by rw [sampleStep_eq hs, sampleStep_eq ht, hrender]
      busy := by rw [sampleStep_eq hs, sampleStep_eq ht, h.progress, h.length]
      length := by rw [sampleStep_length, sampleStep_length, h.length]
      progress := by rw [sampleStep_eq hs, sampleStep_eq ht, h.progress]
      stored := fun i hi => h.stored_sampleStep hs ht (hnext ▸ hi) }

theorem sampleSteps (h : s.SameSamples t) (n : Nat) : (sampleSteps n s).SameSamples (Machine.sampleSteps n t) := by
  induction n generalizing s t with
  | zero => exact h
  | succ n ih => exact ih h.sampleStep

/-- Renders start with equal inputs and no sample stored (R226). -/
theorem renderStart (hs : s.Inv) (ht : t.Inv) (hcfg : s.cfg = t.cfg) (hpatch : s.patch = t.patch) (hqmode : s.qmode = t.qmode)
    (hduration : s.duration = t.duration) (hidle : s.busy = false) (hidle' : t.busy = false) :
    s.renderStart.SameSamples t.renderStart := by
  have htotal : s.totalSamples = t.totalSamples := by rw [totalSamples, totalSamples, hcfg, hduration]
  have hfresh : s.freshRender = t.freshRender := by
    simp only [freshRender, startSegment, crushLength, dcValue, phys, htotal, hpatch, hcfg]
  exact {
    inv_left := hs.renderStart hidle
    inv_right := ht.renderStart hidle'
    sources := sources_eq_iff.mpr ⟨hpatch, hqmode, hduration, hcfg⟩
    render := hfresh
    busy := by simp only [State.renderStart, htotal, hidle, hidle']
    length := by simp only [State.renderStart, htotal]
    progress := rfl
    stored := fun i hi => absurd hi (Nat.not_lt_zero i) }

end SameSamples

end State

/-- LENGTH sample steps after its start a render is at its end; a render of no samples is there at once. -/
theorem progress_sampleSteps_renderStart (s : State) :
    (sampleSteps s.renderStart.length.toNat s.renderStart).progress = s.renderStart.length := by
  cases hn : s.renderStart.length.toNat with
  | zero => exact BitVec.eq_of_toNat_eq hn.symm
  | succ n =>
    obtain ⟨hrun, hzero⟩ := State.renderStart_of_length (s := s) (by omega)
    have hpos : s.renderStart.progress.toNat = 0 := congrArg BitVec.toNat hzero
    obtain ⟨-, -, hprogress⟩ := sampleSteps_complete hrun (n := n) (by omega)
    exact hprogress

/-- Settles O56: the samples stored after LENGTH steps are all of the render's. -/
theorem rendersAreDeterministic : Obligations.RendersAreDeterministic := by
  intro s₁ s₂ t₁ t₂ hinv₁ hinv₂ hcfg hpatch hqmode hduration hidle₁ hidle₂ hstart₁ hstart₂
  cases (exec_renderStart s₁).symm.trans hstart₁
  cases (exec_renderStart s₂).symm.trans hstart₂
  have hstart := State.SameSamples.renderStart hinv₁ hinv₂ hcfg hpatch hqmode hduration hidle₁ hidle₂
  have hend := hstart.sampleSteps s₁.renderStart.length.toNat
  refine ⟨hstart.length, fun i hi => ?_⟩
  rw [← hstart.length]
  exact hend.stored i (by rwa [progress_sampleSteps_renderStart])

end Sys2Proof.Machine
end

section
/-! PROOF. The two error flags (R240 to R247): what every operation of the block makes of them, which transactions raise or clear
them, and that nothing stops the block. -/

open Sys2Proof

namespace Sys2Proof.Machine

/-! ## Which operations concern the error flags -/

/-- The operations that set ERR_ADDR (R224, R225). -/
def setsErrAddr : Instr → Bool
  | .wrBuf _ _ _ | .badAccess _ _ _ _ => true
  | _ => false

/-- The busy-checked operations (R212): they set ERR_BUSY while a render runs. -/
def isBusyChecked : Instr → Bool
  | .wrConfig _ | .wrDuration _ | .wrSectionLength _ | .wrDial _ _ | .wrSlot _ _ | .wrEnv _ _ => true
  | .wrCtrl v => v.getLsbD 0
  | _ => false

/-- The operation writes 1 to bit `j` of STATUS, which clears the flag there (R214). -/
def clearsFlag : Instr → Nat → Bool
  | .wrStatus v, j => v.getLsbD j
  | _, _ => false

/-- A busy-checked operation neither sets ERR_ADDR nor clears a flag. -/
theorem setsErrAddr_of_isBusyChecked {op : Instr} (h : isBusyChecked op = true) :
    setsErrAddr op = false ∧ ∀ j, clearsFlag op j = false := by
  cases op with
  | wrConfig | wrDuration | wrSectionLength | wrDial | wrSlot | wrEnv | wrCtrl => exact ⟨rfl, fun _ => rfl⟩
  | _ => cases h

/-! ## What an update leaves of the flags -/

/-- ERR_ADDR and ERR_BUSY. -/
def State.errorFlags (s : State) : Bool × Bool := (s.errAddr, s.errBusy)

/-- The flags after an operation: each is set by its causes, else kept unless the operation clears it. -/
def State.errorFlagsAfter (s : State) (op : Instr) : Bool × Bool :=
  (setsErrAddr op || !clearsFlag op 3 && s.errAddr,
    isBusyChecked op && s.busy || !clearsFlag op 2 && s.errBusy)

@[simp] theorem State.errorFlags_setDp (s : State) (d : Datapath) : (s.setDp d).errorFlags = s.errorFlags := rfl

@[simp] theorem State.errorFlags_setRender (s : State) (r : Render) : (s.setRender r).errorFlags = s.errorFlags := rfl

@[simp] theorem State.errorFlags_sampleStep (s : State) : s.sampleStep.errorFlags = s.errorFlags := by
  rw [sampleStep_frame]
  rfl

@[simp] theorem State.errorFlags_oscEval (s : State) (n : Fin 8) : (s.oscEval n).errorFlags = s.errorFlags := by
  obtain ⟨p, d, g, -, h⟩ := s.oscEval_eq n
  rw [h]
  rfl

@[simp] theorem State.errorFlags_bqCascade (s : State) (x : F) : (s.bqCascade x).errorFlags = s.errorFlags := by
  obtain ⟨bq, v, h⟩ := s.bqCascade_eq x
  rw [h]
  rfl

@[simp] theorem State.errorFlags_crushHold (s : State) (v : F) : (s.crushHold v).errorFlags = s.errorFlags := by
  rw [crushHold]
  split <;> rfl

@[simp] theorem State.errorFlags_envInterp (s : State) : s.envInterp.errorFlags = s.errorFlags := by
  rw [envInterp]
  split <;> rfl

@[simp] theorem State.errorFlags_envAdvance (s : State) : s.envAdvance.errorFlags = s.errorFlags := by
  rw [envAdvance]
  split <;> rfl

theorem State.errorFlags_clearStatus (s : State) (v : Word) :
    (s.clearStatus v).errorFlags = (!v.getLsbD 3 && s.errAddr, !v.getLsbD 2 && s.errBusy) :=
  congrArg₂ Prod.mk (Bool.and_comm ..) (Bool.and_comm ..)

/-- A busy-checked write whose effect keeps the flags sets ERR_BUSY while a render runs. -/
theorem State.errorFlags_busyChecked {s : State} {f : State → State} (hf : (f s).errorFlags = s.errorFlags) :
    (s.busyChecked f).errorFlags = (s.errAddr, s.busy || s.errBusy) := by
  cases hb : s.busy with
  | true => rw [busyChecked_of_busy hb]; rfl
  | false => rw [busyChecked_of_idle hb, hf]; rfl

/-! ## The flags after each operation -/

/-- The operations of R212 are their effect behind the busy check, and the effect keeps the flags. -/
theorem exec_of_isBusyChecked {op : Instr} (h : isBusyChecked op = true) (s : State) :
    ∃ f : State → State, exec op s = .next (s.busyChecked f) ∧ (f s).errorFlags = s.errorFlags := by
  cases op with
  | wrConfig v => exact ⟨_, exec_wrConfig v s, rfl⟩
  | wrDuration v => exact ⟨_, exec_wrDuration v s, rfl⟩
  | wrSectionLength v => exact ⟨_, exec_wrSectionLength v s, rfl⟩
  | wrDial i v => exact ⟨_, exec_wrDial i v s, rfl⟩
  | wrSlot k v => exact ⟨_, exec_wrSlot k v s, rfl⟩
  | wrEnv k v => exact ⟨_, exec_wrEnv k v s, rfl⟩
  | wrCtrl v => exact ⟨_, exec_wrCtrl_of_set h s, rfl⟩
  | _ => cases h

/-- Every operation completes, with the flags set by its causes, cleared by a write of STATUS, and kept otherwise. -/
theorem exec_errorFlags (op : Instr) (s : State) : ∃ t, exec op s = .next t ∧ t.errorFlags = s.errorFlagsAfter op := by
  cases hop : isBusyChecked op with
  | true =>
    obtain ⟨f, hexec, hf⟩ := exec_of_isBusyChecked hop s
    obtain ⟨haddr, hkeep⟩ := setsErrAddr_of_isBusyChecked hop
    refine ⟨_, hexec, (State.errorFlags_busyChecked hf).trans ?_⟩
    rw [State.errorFlagsAfter, hop, haddr, hkeep, hkeep]
    rfl
  | false =>
    cases op with
    | wrConfig | wrDuration | wrSectionLength | wrDial | wrSlot | wrEnv => cases hop
    | wrCtrl v =>
      refine ⟨s, exec_wrCtrl_of_clear hop s, ?_⟩
      rw [State.errorFlagsAfter, hop]
      rfl
    | wrStatus v => exact ⟨_, exec_wrStatus v s, s.errorFlags_clearStatus v⟩
    | badAccess we size addr v =>
      refine ⟨_, exec_badAccess we size addr v s, ?_⟩
      split <;> rfl
    | sampleStep => exact ⟨_, rfl, s.errorFlags_sampleStep⟩
    | oscEval n => exact ⟨_, rfl, s.errorFlags_oscEval n⟩
    | bqCascade x => exact ⟨_, rfl, s.errorFlags_bqCascade x⟩
    | crushHold v => exact ⟨_, rfl, s.errorFlags_crushHold v⟩
    | envInterp => exact ⟨_, rfl, s.errorFlags_envInterp⟩
    | envAdvance => exact ⟨_, rfl, s.errorFlags_envAdvance⟩
    | phaseAdvance n f => exact ⟨_, rfl, s.errorFlags_setRender _⟩
    | bqActive j x => exact ⟨_, rfl, (State.errorFlags_setDp _ _).trans (s.errorFlags_setRender _)⟩
    | rdReg r => exact ⟨_, exec_rdReg r s, rfl⟩
    | rdBuf8 | rdBuf16 | rdBuf32 | wrId | wrLength | wrProgress | wrIrqEn | wrBuf | renderStart
    | renderComplete | fmOff | amOff | mulOff => exact ⟨_, rfl, rfl⟩
    | _ => exact ⟨_, rfl, s.errorFlags_setDp _⟩

/-- Settles O5: every operation completes, and a transition performs one or resets the block. -/
theorem noOperationStops : Obligations.NoOperationStops := by
  have hexec (op : Instr) (s : State) : ∃ t, exec op s = .next t := by
    obtain ⟨t, ht, -⟩ := exec_errorFlags op s
    exact ⟨t, ht⟩
  refine ⟨hexec, fun s => ?_⟩
  cases ha : s.agenda with
  | nil => rw [step_of_nil ha]; exact hexec _ s
  | cons e rest =>
    rw [step_of_cons ha]
    cases e with
    | host T d => exact hexec (decodeBus T d) _
    | engine => exact hexec .sampleStep _
    | reset => exact ⟨_, rfl⟩

/-- The reset transition clears both flags (R260). -/
theorem errorFlags_of_step_reset {s t : State} {rest : List Event} (ha : s.agenda = .reset :: rest) (h : step s = .next t) :
    t.errorFlags = (false, false) := by
  cases (step_of_cons ha).symm.trans h
  rfl

/-! ## Which transactions write STATUS (R61, R93) -/

/-- A transaction that selects a register write is the 4-byte write of its address. -/
theorem desc_of_decodeBus_writeOf {T : Desc} {d v : Word} {r : RegName} (h : decodeBus T d = writeOf r v) :
    T = mkDesc true 0b10#2 (BitVec.ofNat 22 (regAddr r)) := by
  have henc := encode_decodeBus T d
  rw [h, encode_writeOf, encodeWrite, Option.some_inj, Code.bus.injEq] at henc
  obtain ⟨hT, -⟩ := henc
  exact hT.symm

theorem mkDesc_status : mkDesc true 0b10#2 (BitVec.ofNat 22 (regAddr .status)) = 0x1800008#25 := by decide

/-- Only the 4-byte write of the address of STATUS clears flags. -/
theorem clearsFlag_decodeBus (T : Desc) (d : Word) (j : Nat) :
    clearsFlag (decodeBus T d) j = true ↔ T = 0x1800008#25 ∧ d.getLsbD j = true := by
  constructor
  · intro h
    cases hop : decodeBus T d with
    | wrStatus v =>
      have hT := (desc_of_decodeBus_writeOf (r := .status) hop).trans mkDesc_status
      rw [hT, decodeBus_of_writeDesc mkDesc_status d] at h
      exact ⟨hT, h⟩
    | _ => rw [hop] at h; cases h
  · rintro ⟨rfl, h⟩
    rw [decodeBus_of_writeDesc mkDesc_status d]
    exact h

/-- A flag stays but for a write of 1 to its bit of STATUS. -/
theorem kept_flag_iff (T : Desc) (d : Word) (j : Nat) (flag : Bool) :
    (!clearsFlag (decodeBus T d) j && flag) = true ↔ flag = true ∧ ¬(T = 0x1800008#25 ∧ d.getLsbD j = true) := by
  rw [Bool.and_eq_true_iff, Bool.not_eq_true', Bool.eq_false_iff, ne_eq, clearsFlag_decodeBus, and_comm]

/-! ## Which transactions set ERR_ADDR (R242) -/

/-- The address field of a register access (R61). -/
theorem descAddr_mkDesc_register (we : Bool) (size : BitVec 2) (r : RegName) :
    (descAddr (mkDesc we size (BitVec.ofNat 22 (regAddr r)))).toNat = regAddr r := by
  rw [descAddr_mkDesc, toNat_regAddr]

theorem setsErrAddr_writeOf (r : RegName) (v : Word) : setsErrAddr (writeOf r v) = false := by
  cases r <;> rfl

theorem setsErrAddr_readOf (w : Width) (i : BitVec 21) : setsErrAddr (readOf w i) = false := by
  cases w <;> rfl

/-- ERR_ADDR is set by the illegal accesses and by the writes to the buffer region. -/
theorem setsErrAddr_decodeBus (T : Desc) (d : Word) : setsErrAddr (decodeBus T d) = true ↔
    isIllegal (descSize T) (descAddr T) = true ∨ (0x200000 ≤ (descAddr T).toNat ∧ descWe T = true) := by
  rcases decodeBus_cases T d with ⟨hill, hop⟩ | ⟨r, hT, hlegal, hop⟩ | ⟨w, i, -, hT, hlegal, hop⟩
  · simp [hop, hill, setsErrAddr]
  · have haddr : (descAddr T).toNat < 0x200000 := by
      rw [hT, descAddr_mkDesc_register]
      obtain ⟨hlt, -⟩ := regAddr_bounds r
      omega
    have hop' : setsErrAddr (decodeBus T d) = false := by
      rw [hop]
      split
      · exact setsErrAddr_writeOf r d
      · rfl
    simp [hop', hlegal, haddr]
  · have haddr : 0x200000 ≤ (descAddr T).toNat := by
      rw [hT, descAddr_mkDesc, toNat_bufferAddr]
      omega
    cases hwe : descWe T with
    | true => simp [hop, hwe, haddr, setsErrAddr]
    | false => simp [hop, hwe, hlegal, setsErrAddr_readOf]

/-- A transaction that sets ERR_ADDR changes nothing else, but for the 0 a read returns (R224, R225). -/
theorem exec_decodeBus_of_setsErrAddr {T : Desc} {d : Word} (h : setsErrAddr (decodeBus T d) = true) (s : State) :
    exec (decodeBus T d) s = .next { s with errAddr := true, rdata := if descWe T then s.rdata else 0#32 } := by
  rcases decodeBus_cases T d with ⟨-, hop⟩ | ⟨r, -, -, hop⟩ | ⟨w, i, -, -, -, hop⟩ <;> rw [hop] at h ⊢
  · rw [exec_badAccess]
    split <;> rfl
  · split at h
    · simp [setsErrAddr_writeOf] at h
    · cases h
  · split at h
    · rename_i hwe
      rw [if_pos hwe, if_pos hwe]
      rfl
    · simp [setsErrAddr_readOf] at h

/-! ## Which transactions are busy-checked (R243) -/

/-- The registers whose writes are busy-checked, by address; CTRL with START set only. -/
def busyCheckedAddress (a : Nat) (d : Word) : Prop :=
  a = 0x0C ∨ a = 0x10 ∨ (0x100 ≤ a ∧ a ≤ 0x1C4) ∨ (0x200 ≤ a ∧ a ≤ 0x224) ∨ a = 0x240 ∨
    (0x800 ≤ a ∧ a ≤ 0xF44) ∨ (a = 0x04 ∧ d.getLsbD 0 = true)

/-- Each of these addresses is a register's if it is a multiple of 4. -/
theorem registerAddress_of_busyChecked {a : Nat} {d : Word} (h4 : a % 4 = 0) (h : busyCheckedAddress a d) :
    registerAddress a = true := by
  simp only [busyCheckedAddress, registerAddress, Bool.and_eq_true, Bool.or_eq_true, decide_eq_true_eq] at *
  omega

theorem isBusyChecked_writeOf (r : RegName) (v : Word) :
    isBusyChecked (writeOf r v) = true ↔ busyCheckedAddress (regAddr r) v := by
  cases r <;> simp [isBusyChecked, writeOf, busyCheckedAddress, regAddr] <;> omega

/-- A busy-checked operation is the write of a register. -/
theorem exists_writeOf_of_isBusyChecked {op : Instr} (h : isBusyChecked op = true) : ∃ r v, op = writeOf r v := by
  cases op with
  | wrConfig v => exact ⟨.config, v, rfl⟩
  | wrDuration v => exact ⟨.duration, v, rfl⟩
  | wrSectionLength v => exact ⟨.sectionLength, v, rfl⟩
  | wrDial i v => exact ⟨.dial i, v, rfl⟩
  | wrSlot k v => exact ⟨.slot k, v, rfl⟩
  | wrEnv k v => exact ⟨.env k, v, rfl⟩
  | wrCtrl v => exact ⟨.ctrl, v, rfl⟩
  | _ => cases h

/-- Bits 24:22 of a descriptor are WE and SIZE (R80). -/
theorem extractLsb'_control (T : Desc) : T.extractLsb' 22 3 = BitVec.ofBool (descWe T) ++ descSize T := by
  apply BitVec.eq_of_getLsbD_eq
  intro j hj
  simp only [descWe, descSize, BitVec.getLsbD_append, BitVec.getLsbD_extractLsb']
  interval_cases j <;> simp

/-- 0b110 there is a 4-byte write. -/
theorem control_eq_write_iff (we : Bool) (size : BitVec 2) :
    BitVec.ofBool we ++ size = 0b110#3 ↔ we = true ∧ size = 0b10#2 := by
  revert we size
  decide

/-- The transactions of R243: 4-byte writes at a busy-checked address. -/
theorem isBusyChecked_decodeBus (T : Desc) (d : Word) : isBusyChecked (decodeBus T d) = true ↔
    T.extractLsb' 22 3 = 0b110#3 ∧ (descAddr T).toNat % 4 = 0 ∧ busyCheckedAddress (descAddr T).toNat d := by
  rw [extractLsb'_control, control_eq_write_iff]
  constructor
  · intro h
    obtain ⟨r, v, hop⟩ := exists_writeOf_of_isBusyChecked h
    have hT := desc_of_decodeBus_writeOf hop
    obtain ⟨-, h4⟩ := regAddr_bounds r
    rw [decodeBus_of_writeDesc hT.symm d] at h
    rw [hT, descWe_mkDesc, descSize_mkDesc, descAddr_mkDesc_register]
    exact ⟨⟨rfl, rfl⟩, h4, (isBusyChecked_writeOf r d).mp h⟩
  · rintro ⟨⟨hwe, hsize⟩, h4, haddr⟩
    obtain ⟨r, hr⟩ := Option.isSome_iff_exists.mp ((regAt_isSome _).trans (registerAddress_of_busyChecked h4 haddr))
    have hreg := regAddr_of_regAt hr
    have hT : mkDesc true 0b10#2 (BitVec.ofNat 22 (regAddr r)) = T := by
      rw [hreg, BitVec.ofNat_toNat, BitVec.setWidth_eq, ← hwe, ← hsize, mkDesc_fields]
    rw [decodeBus_of_writeDesc hT d, isBusyChecked_writeOf, hreg]
    exact haddr

/-! ## The obligations -/

/-- Settles O18: a transaction with a cause is an illegal access or a write to the buffer region, and any other keeps the flag or
clears it. -/
theorem errAddrHasExactlyItsCauses : Obligations.ErrAddrHasExactlyItsCauses := by
  refine ⟨fun s t => ⟨fun h => ?sample, fun rest ha h => ?reset⟩, fun T d s => ?transaction⟩
  case sample =>
    cases (exec_sampleStep s).symm.trans h
    exact congrArg Prod.fst s.errorFlags_sampleStep
  case reset => exact congrArg Prod.fst (errorFlags_of_step_reset ha h)
  case transaction =>
    obtain ⟨t, hexec, hflags⟩ := exec_errorFlags (decodeBus T d) s
    have hcause := setsErrAddr_decodeBus T d
    rw [isIllegal_iff, or_assoc, or_assoc, or_assoc] at hcause
    refine ⟨t, hexec, fun h => ?_, fun h => ?_⟩
    · cases hexec.symm.trans (exec_decodeBus_of_setsErrAddr (hcause.mpr h) s)
      rfl
    · have hnot : setsErrAddr (decodeBus T d) = false := Bool.eq_false_iff.mpr (mt hcause.mp h)
      have haddr : t.errAddr = _ := congrArg Prod.fst hflags
      rw [haddr, State.errorFlagsAfter, hnot, Bool.false_or, kept_flag_iff]

/-- Settles O19: a transaction with a cause is a refused busy-checked write, any other keeps the flag or clears it, and a
busy-checked write has a legal address. -/
theorem errBusyHasExactlyItsCauses : Obligations.ErrBusyHasExactlyItsCauses := by
  refine ⟨fun s t => ⟨fun h => ?sample, fun rest ha h => ?reset⟩, fun T d s => ?transaction⟩
  case sample =>
    cases (exec_sampleStep s).symm.trans h
    exact congrArg Prod.snd s.errorFlags_sampleStep
  case reset => exact congrArg Prod.snd (errorFlags_of_step_reset ha h)
  case transaction =>
    obtain ⟨t, hexec, hflags⟩ := exec_errorFlags (decodeBus T d) s
    have haddr : t.errAddr = _ := congrArg Prod.fst hflags
    have hbusy : t.errBusy = _ := congrArg Prod.snd hflags
    have hcause := isBusyChecked_decodeBus T d
    refine ⟨t, hexec, fun ⟨hb, h⟩ => ?refused, fun h => ?kept, fun ⟨hs, ht, hs', ht'⟩ => ?both⟩
    case refused =>
      obtain ⟨f, hop, -⟩ := exec_of_isBusyChecked (hcause.mpr h) s
      cases hexec.symm.trans (exec_busyChecked_of_busy hop hb)
      rfl
    case kept =>
      have hnot : (isBusyChecked (decodeBus T d) && s.busy) = false :=
        Bool.eq_false_iff.mpr fun hc =>
          let ⟨hop, hb⟩ := Bool.and_eq_true_iff.mp hc
          h ⟨hb, hcause.mp hop⟩
      rw [hbusy, State.errorFlagsAfter, hnot, Bool.false_or, kept_flag_iff]
    case both =>
      rw [haddr, State.errorFlagsAfter, hs, Bool.and_false, Bool.or_false] at ht
      rw [hbusy, State.errorFlagsAfter, hs', Bool.and_false, Bool.or_false] at ht'
      obtain ⟨hop, -⟩ := Bool.and_eq_true_iff.mp ht'
      obtain ⟨hnot, -⟩ := setsErrAddr_of_isBusyChecked hop
      cases ht.symm.trans hnot

end Sys2Proof.Machine
end

section
/-! PROOF. The hardware reset: the reset values of the patch and of the render state (R47), what the reset transition performs (R260,
R262), and what the host reads after it (R211, R261). -/

open Sys2Proof

namespace Sys2Proof.Machine

/-! ## The reset values of the banks (R26, R37, R47) -/

theorem Patch.initial_dial (k : Fin 50) : initial.dial[k] = 0#32 := Vector.getElem_replicate k.isLt

theorem Patch.initial_slot (k : Fin 10) : initial.slot[k] = 0#6 := Vector.getElem_replicate k.isLt

theorem Patch.initial_env (k : Fin 466) : initial.env[k] = 0#32 := Vector.getElem_replicate k.isLt

theorem Render.initial_phase (n : Fin 8) : initial.phase[n] = 0#32 := Vector.getElem_replicate n.isLt

theorem Render.initial_bq (j : Fin 3) : initial.bq[j] = ⟨0#32, 0#32, 0#32, 0#32⟩ := Vector.getElem_replicate j.isLt

/-! ## The reset transition (R260, R262) -/

/-- The block takes the reset of an assertion at the head of the schedule, in either mode. -/
theorem step_of_reset {s : State} {rest : List Event} (h : s.agenda = .reset :: rest) :
    step s = .next (s.setAgenda rest).hardwareReset := step_of_cons h

theorem State.hardwareReset_length (s : State) : s.hardwareReset.length = 0#32 := rfl

theorem State.hardwareReset_buf (s : State) : s.hardwareReset.buf = s.buf := rfl

/-- The samples are kept, but LENGTH is 0 and hides every one of them (R69, R261). -/
theorem State.exec_readOf_hardwareReset (s : State) (w : Width) (i : BitVec 21) :
    exec (readOf w i) s.hardwareReset = .next (s.hardwareReset.respond 0#32) := by
  rw [exec_readOf, bufRead_of_empty s.hardwareReset_length]

/-- Settles O59: the transition ends in the reset state over the same buffer, whose flags, counters and words compute, whose
banks hold zeros, and where a buffer read of any width finds LENGTH 0. -/
theorem resetTransitionAbortsAndClears : Obligations.ResetTransitionAbortsAndClears := by
  intro s rest i hreset
  have hread := (s.setAgenda rest).exec_readOf_hardwareReset
  exact ⟨(s.setAgenda rest).hardwareReset, step_of_reset hreset, rfl, rfl, rfl, rfl, State.hardwareReset_length _, rfl, rfl, rfl, rfl,
    rfl, rfl, Patch.initial_dial, Patch.initial_slot, Patch.initial_env, Render.initial_phase, Render.initial_bq, rfl, rfl, rfl, rfl,
    rfl, rfl, rfl, rfl, State.hardwareReset_buf _, rfl, rfl, hread .w1 i, hread .w2 i, hread .w4 i⟩

end Sys2Proof.Machine
end
